-- ==== Sys2Proof/Word.lean ====
section
/-! DEFINITION. The value types of the CORE: unsigned values of 1, 8, 32 and 64 bits (00_scope.md R5, R8). Bit 0 is the least
significant bit (R7), as it is of a BitVec. -/

namespace Sys2Proof

/-- One bit: the OP field of a request (30_encoding.md R40). -/
abbrev Bit := BitVec 1

/-- BYTE_WIDTH = 8: the operands and results of the byte mixers G0 and G1 (R5). -/
abbrev Byte := BitVec 8

/-- HALF_WIDTH = SUBKEY_WIDTH = 32: a half of a block, a subkey, F's operand and result (R5). -/
abbrev Half := BitVec 32

/-- BLOCK_WIDTH = WHITENING_KEY_WIDTH = 64: a block or the whitening key (R5). -/
abbrev Block := BitVec 64

end Sys2Proof
end

