-- ==== Sys2Proof/Config.lean ====
section
/-! DEFINITION. What an implementation of the CORE fixes and the spec leaves open (00_scope.md R6): MAX_INFLIGHT. CORE_LATENCY has
no constant here: the model has no time, and no rule depends on its value (70_reset_and_hazards.md R125; log entry 7). -/

namespace Sys2Proof

/-- How many requests beyond the first may be in flight; no body, so nothing can evaluate it (R6, 92_eei_decisions.md D7; log entry 6). -/
opaque Config.extraInflight : Nat

/-- MAX_INFLIGHT, the most requests that may be issued and not yet completed: any integer >= 1 (R6; OPEN in D7, log entry 6). -/
def Config.maxInflight : Nat := Config.extraInflight + 1

/-- MAX_INFLIGHT >= 1 (R6). -/
@[simp] theorem Config.maxInflight_pos : 0 < Config.maxInflight := Nat.succ_pos _

end Sys2Proof
end

