-- ==== Sys2Proof/Syntax.lean ====
section
/-! DEFINITION. What the host can ask of the CORE: the two operations of spec/opcode_table.json, the request that carries one, the
request as it stands on the input port, and the four kinds of step of 60_exceptions.md R106. -/

namespace Sys2Proof

/-- A subkey set: exactly six subkeys in the order k0..k5 (10_state.md R15). No subset, superset or reordering can be written. -/
structure SubkeySet where
  k0 : Half
  k1 : Half
  k2 : Half
  k3 : Half
  k4 : Half
  k5 : Half
deriving DecidableEq, Repr

/-- The instructions: one constructor per row of spec/opcode_table.json (30_encoding.md R41). Both carry the block of BLK_IN and
the subkeys of K0..K5, in the same positions (R40). -/
inductive Instr where
  /-- ENC, OP = 0: encrypt the plaintext `blk` (42_block_operations.md R83). -/
  | enc (blk : Block) (k : SubkeySet)
  /-- DEC, OP = 1: decrypt the ciphertext `blk` (42_block_operations.md R84). -/
  | dec (blk : Block) (k : SubkeySet)
deriving DecidableEq, Repr

/-- A request, the tuple (op, blk, k) of 10_state.md R17. -/
structure Request where
  op : Bit
  blk : Block
  k : SubkeySet
deriving DecidableEq, Repr

/-- The names of the eight fields of the request format REQ, in its order (30_encoding.md R40). -/
inductive Field where
  | op | blkIn | k0 | k1 | k2 | k3 | k4 | k5
deriving DecidableEq, Repr

/-- A request as the host presents it at the CORE's input: `none` is a field that has no value, undriven or unknown
(60_exceptions.md R103, 93_implementation_defined.md I4). -/
structure PortRequest where
  op : Option Bit
  blkIn : Option Block
  k0 : Option Half
  k1 : Option Half
  k2 : Option Half
  k3 : Option Half
  k4 : Option Half
  k5 : Option Half
deriving DecidableEq, Repr

/-- The kinds of step (60_exceptions.md R106): which one comes next is open (92_eei_decisions.md D7, D9, D13), so State holds the
order as data. -/
inductive Turn where
  /-- The host presents its next request (10_state.md R20). -/
  | issue
  /-- The CORE completes the oldest pending request (10_state.md R21). -/
  | complete
  /-- The host reads BLK_OUT (10_state.md R24). -/
  | read
  /-- A reset is applied (70_reset_and_hazards.md R120). -/
  | reset
deriving DecidableEq, Repr

end Sys2Proof
end

