-- ==== Sys2Proof/WellFormed.lean ====
section
/-! DEFINITION. Which instructions and which presented requests are well-formed. -/

namespace Sys2Proof

/-- Every instruction is well-formed: every value of every field is a valid operand, and there is no reserved or illegal encoding
(30_encoding.md R45). What can be ill-formed is a request on the port, below. -/
def Instr.wellFormed : Instr → Bool
  | .enc _ _ => true
  | .dec _ _ => true

/-- A presented request is well-formed when each of its eight fields has a value; the host must give every field a value
(60_exceptions.md R103, R116). -/
def PortRequest.wellFormed (p : PortRequest) : Bool :=
  p.op.isSome && p.blkIn.isSome && p.k0.isSome && p.k1.isSome && p.k2.isSome && p.k3.isSome && p.k4.isSome && p.k5.isSome

/-- Whether the field of that name has a value (R103). -/
def PortRequest.hasValue (p : PortRequest) : Field → Bool
  | .op => p.op.isSome
  | .blkIn => p.blkIn.isSome
  | .k0 => p.k0.isSome
  | .k1 => p.k1.isSome
  | .k2 => p.k2.isSome
  | .k3 => p.k3.isSome
  | .k4 => p.k4.isSome
  | .k5 => p.k5.isSome

end Sys2Proof
end

