-- ==== Sys2Proof/Decode.lean ====
section
/-! DEFINITION. The request word REQ_WORD and its fields (30_encoding.md R42), decoding, encoding, and the sampling of a request from
the input port (60_exceptions.md R103). A decoder is total over request words (R45) and tells the operation from bit 0 alone (R46). -/

namespace Sys2Proof

/-- The 257-bit request word REQ_WORD[256:0] (R42); every request has this one length (R46). -/
abbrev ReqWord := BitVec 257

/-- OP = REQ_WORD[0] (R42). -/
def wordOp (w : ReqWord) : Bit := w.extractLsb' 0 1

/-- BLK_IN = REQ_WORD[64:1] (R42). -/
def wordBlk (w : ReqWord) : Block := w.extractLsb' 1 64

/-- K<i> = REQ_WORD[96+32i : 65+32i] (R42). -/
def wordKey (i : Nat) (w : ReqWord) : Half := w.extractLsb' (65 + 32 * i) 32

/-- The request that a request word serialises (R42). -/
def requestOfWord (w : ReqWord) : Request :=
  { op := wordOp w, blk := wordBlk w,
    k := ⟨wordKey 0 w, wordKey 1 w, wordKey 2 w, wordKey 3 w, wordKey 4 w, wordKey 5 w⟩ }

/-- OP selects the operation: 0 is ENC, 1 is DEC (R41). -/
def decodeRequest (r : Request) : Instr :=
  if r.op = 0 then .enc r.blk r.k else .dec r.blk r.k

/-- The instruction of a request word: total, no decode fault (R45). -/
def decodeWord (w : ReqWord) : Instr := decodeRequest (requestOfWord w)

/-- Why a number is refused as a request word. -/
inductive DecodeError where
  /-- The number has a bit above bit 256: a request has one fixed length, 257 bits (R46). -/
  | longerThanRequestWord
deriving DecidableEq, Repr

/-- Two to the power 257: the numbers below it are the request words (R46). Written as a product, since Lean's tactics evaluate no
power above 256. -/
def wordBound : Nat := 2 * 2 ^ 256

/-- A number as a request word; none when it has a bit above bit 256 (R46). -/
def wordOfNat (w : Nat) : Option ReqWord := if w < wordBound then some (BitVec.ofNat 257 w) else none

/-- Decode any number: its 257 bits if it has no more (R42), refused by name otherwise (R46; log entry 12). -/
def decode (w : Nat) : Except DecodeError Instr :=
  match wordOfNat w with
  | some v => .ok (decodeWord v)
  | none => .error .longerThanRequestWord

/-- What the decoder reads from an instruction whose low `nbits` bits are `w` and whose bits above are 0; the bits are numbered as
REQ_WORD's (R42). -/
def decodeTableWord (nbits w : Nat) : Option Instr :=
  match decode (w % 2 ^ nbits) with
  | .ok i => some i
  | .error _ => none

/-- The OP code of an operation (R41). -/
def opCode : Instr → Bit
  | .enc _ _ => 0
  | .dec _ _ => 1

/-- The request that carries an instruction (R40, R41). -/
def encodeRequest : Instr → Request
  | .enc blk k => { op := opCode (.enc blk k), blk := blk, k := k }
  | .dec blk k => { op := opCode (.dec blk k), blk := blk, k := k }

/-- A request laid out as its request word: from the top K5, K4, K3, K2, K1, K0, BLK_IN, and OP in bit 0 (R42). -/
def wordOfRequest (r : Request) : ReqWord :=
  r.k.k5 ++ r.k.k4 ++ r.k.k3 ++ r.k.k2 ++ r.k.k1 ++ r.k.k0 ++ r.blk ++ r.op

/-- The encoding of an instruction as a request word (R41, R42). -/
def encode (i : Instr) : ReqWord := wordOfRequest (encodeRequest i)

/-- The field's name when the field has no value. -/
def missingField {α : Type} (f : Field) : Option α → List Field
  | none => [f]
  | some _ => []

/-- The names of the fields of a presented request that have no value, in the order of R40 (60_exceptions.md R103; log entry 14). -/
def undrivenFields (p : PortRequest) : List Field :=
  missingField .op p.op ++ missingField .blkIn p.blkIn ++ missingField .k0 p.k0 ++ missingField .k1 p.k1 ++
    missingField .k2 p.k2 ++ missingField .k3 p.k3 ++ missingField .k4 p.k4 ++ missingField .k5 p.k5

/-- The operands sampled from the port at issue (70_reset_and_hazards.md R127); none when some field has no value. -/
def sampleRequest (p : PortRequest) : Option Request :=
  match p.op, p.blkIn, p.k0, p.k1, p.k2, p.k3, p.k4, p.k5 with
  | some op, some blk, some k0, some k1, some k2, some k3, some k4, some k5 =>
    some { op := op, blk := blk, k := ⟨k0, k1, k2, k3, k4, k5⟩ }
  | _, _, _, _, _, _, _, _ => none

/-- A request with every field driven on the port. -/
def driveRequest (r : Request) : PortRequest :=
  { op := some r.op, blkIn := some r.blk, k0 := some r.k.k0, k1 := some r.k.k1, k2 := some r.k.k2, k3 := some r.k.k3,
    k4 := some r.k.k4, k5 := some r.k.k5 }

end Sys2Proof
end

