-- ==== Sys2Proof/Machine/Operands.lean ====
section
/-! DEFINITION. How the datapath forms its operands: Pack, HighHalf and LowHalf (41_datapath_functions.md R60 to R62), the bytes of a
half (20_memory.md R31), the whitening key and the round keys (30_encoding.md R44). -/

namespace Sys2Proof.Machine

/-- The round state: the left and right halves of a block (10_state.md R14, R16). -/
structure Halves where
  left : Half
  right : Half
deriving DecidableEq, Repr

/-- The four round keys in the order the rounds use them (30_encoding.md R44). -/
structure RoundKeys where
  rk1 : Half
  rk2 : Half
  rk3 : Half
  rk4 : Half
deriving DecidableEq, Repr

/-- Pack(a, b): a in bits 63:32, b in bits 31:0 (R60). -/
def pack (a b : Half) : Block := a ++ b

/-- HighHalf(v) = v[63:32] (R61, read as 90_conflicts.md C1 resolves it). -/
def highHalf (v : Block) : Half := v.extractLsb' 32 32

/-- LowHalf(v) = v[31:0] (R62). -/
def lowHalf (v : Block) : Half := v.extractLsb' 0 32

/-- Split a block into its halves (10_state.md R14). -/
def splitBlock (v : Block) : Halves := { left := highHalf v, right := lowHalf v }

/-- Pack a pair of halves (R60). -/
def packHalves (h : Halves) : Block := pack h.left h.right

/-- Byte xj of a half, j = 0..3, big-endian: h[31-8j : 24-8j] (20_memory.md R31). -/
def byteOf (j : Nat) (h : Half) : Byte := h.extractLsb' (24 - 8 * j) 8

/-- The whitening key kw = Pack(k4, k5), the same for ENC and DEC (42_block_operations.md R80). -/
def whiteningKey (k : SubkeySet) : Block := pack k.k4 k.k5

/-- ENC's round keys: k0, k1, k2, k3 (30_encoding.md R44). -/
def roundKeysEnc (k : SubkeySet) : RoundKeys := ⟨k.k0, k.k1, k.k2, k.k3⟩

/-- DEC's round keys: k3, k2, k1, k0; the datapath reverses them, not the host (30_encoding.md R40, R44). -/
def roundKeysDec (k : SubkeySet) : RoundKeys := ⟨k.k3, k.k2, k.k1, k.k0⟩

end Sys2Proof.Machine
end

