-- ==== Sys2Proof/Machine/Mixers.lean ====
section
/-! DEFINITION. The byte mixers G0 and G1, the round function F and the Feistel round ROUND (41_datapath_functions.md R64 to R71).
Every sum is formed at 8 bits, so it wraps mod 256 before the shift (R70). -/

namespace Sys2Proof.Machine

/-- shl_8(x, n): a logical left shift on the 8-bit domain, not a rotate (00_scope.md R8, G_SHIFT of R5). -/
def shl8 (x : Byte) (n : Nat) : Byte := x <<< n

/-- G0(a, b) = shl_8((a + b) mod 256, 2) (R64). -/
def g0 (a b : Byte) : Byte := shl8 (a + b) 2

/-- G1(a, b) = shl_8((a + b + 1) mod 256, 2): G0 with a carry-in of 1 (R65). -/
def g1 (a b : Byte) : Byte := shl8 (a + b + 1) 2

/-- F (R67): y1 first, then y0 and y2, then y3. The second operand of y2 is x2 AND x3, not XOR (91_not_in_source.md N9). -/
def roundF (v : Half) : Half :=
  let x0 := byteOf 0 v
  let x1 := byteOf 1 v
  let x2 := byteOf 2 v
  let x3 := byteOf 3 v
  let y1 := g1 (x0 ^^^ x1) (x2 ^^^ x3)
  let y0 := g0 x0 y1
  let y2 := g0 y1 (x2 &&& x3)
  let y3 := g1 y2 x3
  y0 ++ y1 ++ y2 ++ y3

/-- ROUND(left, right, key) = (left ^ F(right ^ key), right): the pair (newLeft, right), with no swap (R69). -/
def feistelRound (left right key : Half) : Half × Half := (left ^^^ roundF (right ^^^ key), right)

end Sys2Proof.Machine
end

