-- ==== Sys2Proof/Machine/Block.lean ====
section
/-! DEFINITION. The block operations ENC and DEC (42_block_operations.md R80 to R84), the result of a request (10_state.md R18), and the
internal round state at each stage (10_state.md R16). -/

namespace Sys2Proof.Machine

/-- XMIX(L, R) = (L, R ^ L) (R81). -/
def xmix (h : Halves) : Halves := { left := h.left, right := h.right ^^^ h.left }

/-- A round of stages 1 to 3: the halves are swapped after it (R82). -/
def swappedRound (h : Halves) (key : Half) : Halves :=
  let r := feistelRound h.left h.right key
  { left := r.2, right := r.1 }

/-- The round of stage 4: the halves are not swapped (R82). -/
def finalRound (h : Halves) (key : Half) : Halves :=
  let r := feistelRound h.left h.right key
  { left := r.1, right := r.2 }

/-- FEISTEL4: four rounds with rk1, rk2, rk3, rk4 in that order, no branch and no early exit (R82, 10_state.md R12). -/
def feistel4 (h : Halves) (rk : RoundKeys) : Halves :=
  finalRound (swappedRound (swappedRound (swappedRound h rk.rk1) rk.rk2) rk.rk3) rk.rk4

/-- ENC(x, k) (R83). -/
def encrypt (x : Block) (k : SubkeySet) : Block :=
  let kw := whiteningKey k
  let p := x ^^^ kw
  packHalves (xmix (feistel4 (xmix (splitBlock p)) (roundKeysEnc k)))

/-- DEC(c, k): the ciphertext is split as given, and kw is applied after the halves are packed again (R84). -/
def decrypt (c : Block) (k : SubkeySet) : Block :=
  let kw := whiteningKey k
  packHalves (xmix (feistel4 (xmix (splitBlock c)) (roundKeysDec k))) ^^^ kw

/-- The result of an instruction: ENC or DEC of its block and subkeys, of nothing else (10_state.md R18, R22). -/
def resultOf : Instr → Block
  | .enc blk k => encrypt blk k
  | .dec blk k => decrypt blk k

/-- Result(req): a total function of the request alone (10_state.md R18). -/
def requestResult (r : Request) : Block := resultOf (decodeRequest r)

/-- The round state at the stages s = 0..5, from the halves before the first cross-mix (10_state.md R16; log entry 16). -/
def stageStates (h : Halves) (rk : RoundKeys) : List Halves :=
  let s0 := xmix h
  let s1 := swappedRound s0 rk.rk1
  let s2 := swappedRound s1 rk.rk2
  let s3 := swappedRound s2 rk.rk3
  let s4 := finalRound s3 rk.rk4
  [s0, s1, s2, s3, s4, xmix s4]

/-- The stages of ENC, from the whitened block p (10_state.md R16, R83). -/
def encStages (x : Block) (k : SubkeySet) : List Halves :=
  stageStates (splitBlock (x ^^^ whiteningKey k)) (roundKeysEnc k)

/-- The stages of DEC (10_state.md R16, R84). -/
def decStages (c : Block) (k : SubkeySet) : List Halves := stageStates (splitBlock c) (roundKeysDec k)

end Sys2Proof.Machine
end

