-- ==== Sys2Proof/Machine/State.lean ====
section
/-! DEFINITION. The state of one CORE (10_state.md R19), the host's side of the interface written down as data (log entries 1 to 5), the
state after reset, and the reasons a step could stop. -/

namespace Sys2Proof.Machine

/-- The model faults of 60_exceptions.md R102. They are RECORDS, held in State.faults: the step that raises one answers a next
state, and no step of this machine answers Outcome.fault (the CORE raises no exception, R100; log entry 13). -/
inductive Fault where
  /-- Code 1. Raised by an Issue of a request with a field that has no value (R103): the names of those fields, and the OP value if
  OP has one. Safe: the request is not accepted and gets no response. -/
  | operandNoValue (missing : List Field) (op : Option Bit)
  /-- Code 2. Raised by a host read of BLK_OUT while it is NONE (R104). Safe: no value is returned. -/
  | readBeforeResult
deriving DecidableEq, Repr

/-- Why the model would give an instruction no meaning. -/
inductive Refusal where
  /-- An instruction without a meaning yet, by its mnemonic; raised by no arm of exec, since ENC and DEC have theirs. Safe. -/
  | notModelled (mnemonic : String)
deriving DecidableEq, Repr

/-- The state. The first four fields are the spec's (R19); the last three are the model's own and hold the host's side. -/
structure State where
  /-- PENDING: requests issued and not yet completed, oldest first; at most MAX_INFLIGHT of them (R19). -/
  pending : List Request
  /-- BLK_OUT: the result of the most recent completed request, or NONE (R19, R121). -/
  blkOut : Option Block
  /-- RSP_LOG: every response delivered since the run began, in delivery order (R19). -/
  rspLog : List (Request × Block)
  /-- FAULTS: the model faults, in the order raised; never cleared (R19, R102). -/
  faults : List Fault
  /-- The model's own: the values host reads of BLK_OUT returned, oldest first (R24; log entry 5). -/
  readLog : List Block
  /-- The model's own: the host's requests still to be issued, in order; the head stands at the input (R20, R112; log entry 4). -/
  requests : List PortRequest
  /-- The model's own: which step comes next, and next, ... (R106; log entries 1 and 2). -/
  turns : List Turn
deriving DecidableEq, Repr

/-- The machine right after reset, at the start of a run: PENDING empty and BLK_OUT NONE (70_reset_and_hazards.md R120, R121),
RSP_LOG and FAULTS empty (10_state.md R19); the host's side is empty (log entry 9). -/
def State.reset : State :=
  { pending := [], blkOut := none, rspLog := [], faults := [], readLog := [], requests := [], turns := [] }

end Sys2Proof.Machine
end

