-- ==== Sys2Proof/Machine/Ops.lean ====
section
/-! DEFINITION. The named operations on the state: recording a model fault, Issue, delivering a response, a host read and a reset
(10_state.md R20 to R24, 60_exceptions.md R102, 70_reset_and_hazards.md R120), and placing a request word where the next step takes
it. The CORE has no trap entry or return (60_exceptions.md R107, R108), so raiseFault is the one operation a fault goes through. -/

namespace Sys2Proof.Machine

/-- The code of a model fault (60_exceptions.md R102). -/
def faultCode : Fault → Nat
  | .operandNoValue _ _ => 1
  | .readBeforeResult => 2

/-- raise f: the record is appended to FAULTS and nothing else changes (60_exceptions.md R102). -/
def raiseFault (f : Fault) (s : State) : State := { s with faults := s.faults ++ [f] }

/-- PENDING <- PENDING ++ [req] (10_state.md R20). -/
def acceptRequest (r : Request) (s : State) : State := { s with pending := s.pending ++ [r] }

/-- Issue of the presented request, the hold aside: it is sampled and accepted, or raises OperandNoValue (10_state.md R20,
60_exceptions.md R103). -/
def presentRequest (p : PortRequest) (s : State) : State :=
  match sampleRequest p with
  | some r => acceptRequest r s
  | none => raiseFault (.operandNoValue (undrivenFields p) p.op) s

/-- Issue(req), with MAX_INFLIGHT = `cap` (10_state.md R20): none when PENDING is full, where the issue has no step and the host is held. -/
def issueRequest (cap : Nat) (p : PortRequest) (s : State) : Option State :=
  if s.pending.length < cap then some (presentRequest p s) else none

/-- An Issue turn: the host presents the head of its requests, which leaves them unless the host is held; with no request there is no
step (log entries 3 and 4). -/
def issueNext (cap : Nat) (s : State) : State :=
  match s.requests with
  | [] => s
  | p :: rest =>
    match issueRequest cap p s with
    | some t => { t with requests := rest }
    | none => s

/-- Deliver the response `v` to request `r`: BLK_OUT <- v, RSP_LOG <- RSP_LOG ++ [(r, v)], emit RSP(v) (10_state.md R21). -/
def deliver (r : Request) (v : Block) (s : State) : State :=
  { s with blkOut := some v, rspLog := s.rspLog ++ [(r, v)] }

/-- A host read of BLK_OUT: the value returned to the host, if any, and the state after. A value is returned and nothing changes, or no
value is returned and ReadBeforeResult is recorded (10_state.md R24, 60_exceptions.md R104). -/
def hostRead (s : State) : Option Block × State :=
  match s.blkOut with
  | some v => (some v, s)
  | none => (none, raiseFault .readBeforeResult s)

/-- A read turn: the value the read returned, if any, is kept in readLog (log entry 5). -/
def readBlkOut (s : State) : State :=
  match hostRead s with
  | (some v, t) => { t with readLog := t.readLog ++ [v] }
  | (none, t) => t

/-- Reset: PENDING <- [], BLK_OUT <- NONE; RSP_LOG and FAULTS are kept (70_reset_and_hazards.md R120). A power-down acts as a reset
(60_exceptions.md R114, log entry 17). -/
def resetCore (s : State) : State := { s with pending := [], blkOut := none }

/-- Place the request whose word has low `nbits` bits `w`, and zeros above, at the head of PENDING, and let the CORE complete it next
(log entry 10). A number longer than a request word places nothing. -/
def placeWord (s : State) (nbits w : Nat) : State :=
  match wordOfNat (w % 2 ^ nbits) with
  | some v => { s with pending := requestOfWord v :: s.pending.tail, turns := .complete :: s.turns }
  | none => s

end Sys2Proof.Machine
end

