-- ==== Sys2Proof/Machine/Decrypt.lean ====
section
/-! DEFINITION. The meaning of DEC (42_block_operations.md R84): what completing a DEC request does (10_state.md R21). -/

namespace Sys2Proof.Machine

/-- DEC, taken from PENDING: deliver DEC(blk, k) as the response to the request (R84, 10_state.md R21). No flag, no exception, for
every block and subkey set (60_exceptions.md R100). -/
def execDec (blk : Block) (k : SubkeySet) (s : State) : Host.Outcome State Fault Refusal :=
  .next (deliver (encodeRequest (.dec blk k)) (decrypt blk k) s)

end Sys2Proof.Machine
end

