-- ==== Sys2Proof/Machine/Encrypt.lean ====
section
/-! DEFINITION. The meaning of ENC (42_block_operations.md R83): what completing an ENC request does (10_state.md R21). -/

namespace Sys2Proof.Machine

/-- ENC, taken from PENDING: deliver ENC(blk, k) as the response to the request (R83, 10_state.md R21). No flag, no exception, for
every block and subkey set (60_exceptions.md R100). -/
def execEnc (blk : Block) (k : SubkeySet) (s : State) : Host.Outcome State Fault Refusal :=
  .next (deliver (encodeRequest (.enc blk k)) (encrypt blk k) s)

end Sys2Proof.Machine
end

