-- ==== Sys2Proof/Machine/Dispatch.lean ====
section
/-! DEFINITION. exec: one arm per instruction, each a direct call of its meaning. -/

namespace Sys2Proof.Machine

/-- Completing the instruction `i`, taken from PENDING, in state `s` (10_state.md R21; log entry 20). -/
def exec (i : Instr) (s : State) : Host.Outcome State Fault Refusal :=
  match i with
  | .enc blk k => Sys2Proof.Machine.execEnc blk k s
  | .dec blk k => Sys2Proof.Machine.execDec blk k s

end Sys2Proof.Machine
end

