-- ==== Sys2Proof/Machine/Turns.lean ====
section
/-! DEFINITION. One step of the CORE and its host (60_exceptions.md R106), for any MAX_INFLIGHT. Which step comes next is read from
State.turns; when that list is used up, the run drains to its end (70_reset_and_hazards.md R124; log entry 2). -/

namespace Sys2Proof.Machine

/-- Complete (10_state.md R21): take the oldest request off PENDING, decode it and run it. With PENDING empty there is no step
(log entry 3). -/
def completeOldest (s : State) : Host.Outcome State Fault Refusal :=
  match s.pending with
  | [] => .next s
  | r :: rest => exec (decodeRequest r) { s with pending := rest }

/-- The step of one kind, with MAX_INFLIGHT = `cap` (60_exceptions.md R106). -/
def takeTurn (cap : Nat) (t : Turn) (s : State) : Host.Outcome State Fault Refusal :=
  match t with
  | .issue => .next (issueNext cap s)
  | .complete => completeOldest s
  | .read => .next (readBlkOut s)
  | .reset => .next (resetCore s)

/-- The turn taken when no turn is listed: the CORE completes what is pending, then the host issues what is left, then the run is over
(70_reset_and_hazards.md R124, 60_exceptions.md R117; log entry 2). -/
def drainTurn (s : State) : Option Turn :=
  match s.pending, s.requests with
  | _ :: _, _ => some .complete
  | [], _ :: _ => some .issue
  | [], [] => none

/-- One step, with MAX_INFLIGHT = `cap` (00_scope.md R6: the model takes it as an argument). When the run is over nothing changes. -/
def stepWith (cap : Nat) (s : State) : Host.Outcome State Fault Refusal :=
  match s.turns with
  | t :: ts => takeTurn cap t { s with turns := ts }
  | [] =>
    match drainTurn s with
    | some t => takeTurn cap t s
    | none => .next s

end Sys2Proof.Machine
end

