-- ==== Sys2Proof/Machine/Step.lean ====
section
/-! DEFINITION. step: one step of the machine with the MAX_INFLIGHT of the configuration, and the placing of an instruction where the next
step takes it. -/

namespace Sys2Proof.Machine

/-- One step (60_exceptions.md R106), with MAX_INFLIGHT from Config (log entry 6). -/
def step (s : State) : Host.Outcome State Fault Refusal := stepWith Config.maxInflight s

/-- `s` with the instruction word placed at the head of PENDING, where Complete takes its request, and the CORE's turn next (log entry 10). -/
def State.withFetchWord (s : State) (nbits w : Nat) : State := placeWord s nbits w

end Sys2Proof.Machine
end

