-- ==== Sys2Proof/Machine/Assembler.lean ====
section
/-! DEFINITION. The textual syntax of requests (30_encoding.md R47) and the host-action notations RESET, READ and => (R48), as functions
on lists of characters, and the loading of such lines as the host's side of a run. The CORE has no assembler of its own; what R47
leaves open in the spelling is in log entry 18. -/

namespace Sys2Proof.Machine

/-- What a line of a program spells. -/
inductive Line where
  /-- Nothing, or a comment alone. -/
  | blank
  /-- A request, and the response stated for it by `=>` if there is one (R47, R48). -/
  | request (r : Request) (stated : Option Block)
  /-- RESET: a reset (R48, 70_reset_and_hazards.md R120). -/
  | reset
  /-- READ: a host read of BLK_OUT (R48, 10_state.md R24). -/
  | read
deriving DecidableEq, Repr

/-- Why the assembler refuses a line: it then spells no request (R47). -/
inductive AsmError where
  /-- The first word is none of ENC, DEC, RESET, READ. -/
  | unknownMnemonic
  /-- An operand is no hexadecimal, binary or decimal literal. -/
  | notALiteral
  /-- A literal does not fit its field. -/
  | literalTooWide
  /-- A request has not exactly one block and six subkeys, or RESET or READ has an operand. -/
  | wrongOperandCount
deriving DecidableEq, Repr

/-- A space or a tab. -/
def isGap (c : Char) : Bool := c == ' ' || c == '\t'

/-- The text without the gaps before and after it. -/
def trimGaps (cs : List Char) : List Char := ((cs.dropWhile isGap).reverse.dropWhile isGap).reverse

/-- The value of a digit in a base of at most 16. -/
def digitValue (base : Nat) (c : Char) : Option Nat :=
  let n := c.toNat
  let v :=
    if 48 ≤ n ∧ n ≤ 57 then n - 48
    else if 65 ≤ n ∧ n ≤ 70 then n - 55
    else if 97 ≤ n ∧ n ≤ 102 then n - 87
    else 16
  if v < base then some v else none

/-- The value of a string of digits read after the value `acc`; none when some character is no digit of the base. -/
def readDigits (base : Nat) : Nat → List Char → Option Nat
  | acc, [] => some acc
  | acc, c :: cs =>
    match digitValue base c with
    | some d => readDigits base (acc * base + d) cs
    | none => none

/-- A string of at least one digit. -/
def readNumber (base : Nat) (cs : List Char) : Option Nat :=
  match cs with
  | [] => none
  | _ :: _ => readDigits base 0 cs

/-- A literal: hexadecimal 0x..., binary 0b... with _ as a separator, or decimal (R47). DESIGN CHOICE (log entry 18): R47 does not say
where a _ may stand in a binary literal, and every _ after 0b is dropped, so a leading, trailing or doubled one is accepted (0b_1,
0b1_, 0b1__0); at least one digit must remain. -/
def readLiteral : List Char → Option Nat
  | '0' :: 'x' :: ds => readNumber 16 ds
  | '0' :: 'b' :: ds => readNumber 2 (ds.filter (fun c => c != '_'))
  | ds => readNumber 10 ds

/-- A literal for a field of `width` bits; one that does not fit is refused (R47). -/
def readField (width : Nat) (cs : List Char) : Except AsmError (BitVec width) :=
  match readLiteral (trimGaps cs) with
  | none => .error .notALiteral
  | some n => if n < 2 ^ width then .ok (BitVec.ofNat width n) else .error .literalTooWide

/-- The pieces between commas. -/
def splitCommas : List Char → List (List Char)
  | [] => [[]]
  | c :: cs =>
    if c == ',' then [] :: splitCommas cs
    else
      match splitCommas cs with
      | [] => [[c]]
      | w :: ws => (c :: w) :: ws

/-- The operands of a request: `<blk>, <k0>, ..., <k5>`, the subkeys in k0..k5 order for DEC as for ENC (R47). -/
def readOperands (op : Bit) (cs : List Char) : Except AsmError Request :=
  match splitCommas cs with
  | [b, c0, c1, c2, c3, c4, c5] => do
    let blk ← readField 64 b
    let k0 ← readField 32 c0
    let k1 ← readField 32 c1
    let k2 ← readField 32 c2
    let k3 ← readField 32 c3
    let k4 ← readField 32 c4
    let k5 ← readField 32 c5
    pure { op := op, blk := blk, k := ⟨k0, k1, k2, k3, k4, k5⟩ }
  | _ => .error .wrongOperandCount

/-- The text before the comment, and the comment's text: `;` starts a comment that runs to the end of the line (R47). -/
def splitComment : List Char → List Char × List Char
  | [] => ([], [])
  | c :: cs =>
    if c == ';' then ([], cs)
    else
      let r := splitComment cs
      (c :: r.1, r.2)

/-- The text before the first `=>`, and the text after it if there is one (R48). -/
def splitArrow : List Char → List Char × Option (List Char)
  | [] => ([], none)
  | '=' :: '>' :: cs => ([], some cs)
  | c :: cs =>
    let r := splitArrow cs
    (c :: r.1, r.2)

/-- The response a comment states: a comment that opens with `=> <value>`, as 95_test_vectors.md writes it. DESIGN CHOICE (log entry
18): R48 does not say what such a comment means when its value is no literal or does not fit 64 bits, and it then states no response
and refuses nothing, as any other comment. -/
def commentResponse (cs : List Char) : Option Block :=
  match cs.dropWhile isGap with
  | '=' :: '>' :: ds =>
    match readField 64 ((ds.dropWhile isGap).takeWhile (fun c => !isGap c)) with
    | .ok v => some v
    | .error _ => none
  | _ => none

/-- A lower-case letter's capital: the mnemonic is case-insensitive (R47). -/
def upperChar (c : Char) : Char := if 97 ≤ c.toNat ∧ c.toNat ≤ 122 then Char.ofNat (c.toNat - 32) else c

/-- A request whose operands are `rest`, with the response `after` states, or else the one the comment states. DESIGN CHOICE (log entry
18): R48 does not speak of a line with both, and the response before the comment is then the one stated; nor of a value before the
comment that is no 64-bit literal, and such a line is refused. -/
def readRequest (op : Bit) (rest : List Char) (after : Option (List Char)) (comment : List Char) : Except AsmError Line :=
  match readOperands op rest, after with
  | .error e, _ => .error e
  | .ok r, none => .ok (.request r (commentResponse comment))
  | .ok r, some v =>
    match readField 64 v with
    | .ok b => .ok (.request r (some b))
    | .error e => .error e

/-- A host action, which has no operand (R48). -/
def readAction (action : Line) (rest : List Char) (after : Option (List Char)) : Except AsmError Line :=
  if (trimGaps rest).isEmpty && after.isNone then .ok action else .error .wrongOperandCount

/-- One line of text (R47, R48). -/
def assembleLine (cs : List Char) : Except AsmError Line :=
  let c := splitComment cs
  let a := splitArrow c.1
  let body := trimGaps a.1
  let word := (body.takeWhile (fun c => !isGap c)).map upperChar
  let rest := body.dropWhile (fun c => !isGap c)
  match word with
  | [] => if a.2.isNone then .ok .blank else .error .unknownMnemonic
  | ['E', 'N', 'C'] => readRequest 0 rest a.2 c.2
  | ['D', 'E', 'C'] => readRequest 1 rest a.2 c.2
  | ['R', 'E', 'S', 'E', 'T'] => readAction .reset rest a.2
  | ['R', 'E', 'A', 'D'] => readAction .read rest a.2
  | _ => .error .unknownMnemonic

/-- The request word a line encodes: that of its request; RESET, READ and a blank line have none (R47, R48). -/
def lineWord : Line → Option ReqWord
  | .request r _ => some (wordOfRequest r)
  | .blank => none
  | .reset => none
  | .read => none

/-- Whether the response a line states is the one the rules give for its request (R48, 10_state.md R18). -/
def statedHolds : Line → Bool
  | .request r (some v) => requestResult r == v
  | .request _ none => true
  | .blank => true
  | .reset => true
  | .read => true

/-- The digit of a value below 16, as 95_test_vectors.md writes it: 0..9, A..F. -/
def hexDigit (n : Nat) : Char := if n < 10 then Char.ofNat (48 + n) else Char.ofNat (55 + n)

/-- The low `digits` hexadecimal digits of `n`, most significant first. -/
def hexDigits : Nat → Nat → List Char
  | 0, _ => []
  | d + 1, n => hexDigits d (n / 16) ++ [hexDigit (n % 16)]

/-- A hexadecimal literal of a fixed number of digits (R47). -/
def hexLiteral (digits n : Nat) : List Char := '0' :: 'x' :: hexDigits digits n

/-- A request written as a line of R47, with hexadecimal literals of full width. -/
def renderRequest (r : Request) : List Char :=
  (if r.op = 0 then ['E', 'N', 'C', ' '] else ['D', 'E', 'C', ' ']) ++
    hexLiteral 16 r.blk.toNat ++ [',', ' '] ++ hexLiteral 8 r.k.k0.toNat ++ [',', ' '] ++ hexLiteral 8 r.k.k1.toNat ++ [',', ' '] ++
    hexLiteral 8 r.k.k2.toNat ++ [',', ' '] ++ hexLiteral 8 r.k.k3.toNat ++ [',', ' '] ++ hexLiteral 8 r.k.k4.toNat ++ [',', ' '] ++
    hexLiteral 8 r.k.k5.toNat

/-- The requests a program issues, in order, every field driven. -/
def programRequests : List Line → List PortRequest
  | [] => []
  | .request r _ :: ls => driveRequest r :: programRequests ls
  | .blank :: ls => programRequests ls
  | .reset :: ls => programRequests ls
  | .read :: ls => programRequests ls

/-- The turns of a program under the schedule in which each request completes before the next line (log entry 19). -/
def programTurns : List Line → List Turn
  | [] => []
  | .request _ _ :: ls => .issue :: .complete :: programTurns ls
  | .blank :: ls => programTurns ls
  | .reset :: ls => .reset :: programTurns ls
  | .read :: ls => .read :: programTurns ls

/-- Load a program as the host's side of a run, after what the host has already planned (log entry 19). -/
def loadProgram (ls : List Line) (s : State) : State :=
  { s with requests := s.requests ++ programRequests ls, turns := s.turns ++ programTurns ls }

end Sys2Proof.Machine
end

