-- ==== Sys2Proof/Safety.lean ====
section
/-! DEFINITION. Runs of the machine, the end and success of a run (60_exceptions.md R117), and the invariant that every step keeps. -/

namespace Sys2Proof.Machine

/-- `n` steps, stopping at the first that answers no next state. -/
def runSteps : Nat → State → Host.Outcome State Fault Refusal
  | 0, s => .next s
  | n + 1, s =>
    match step s with
    | .next t => runSteps n t
    | .fault f => .fault f
    | .refused r => .refused r

/-- A run is over when the host has no further request to issue and PENDING is empty (R117). -/
abbrev RunOver (s : State) : Prop := s.requests = [] ∧ s.pending = []

/-- A run is successful when it is over and FAULTS is empty (R117, R102). -/
abbrev Successful (s : State) : Prop := RunOver s ∧ s.faults = []

/-- The observation of a run: RSP_LOG together with FAULTS (R117). -/
def observation (s : State) : List (Request × Block) × List Fault := (s.rspLog, s.faults)

/-- A request together with its response. -/
def answered (r : Request) : Request × Block := (r, requestResult r)

/-- PENDING holds at most MAX_INFLIGHT requests (10_state.md R19). -/
abbrev PendingBounded (s : State) : Prop := s.pending.length ≤ Config.maxInflight

/-- Every response delivered is Result of its request (10_state.md R18, R21). -/
abbrev LogCorrect (s : State) : Prop := ∀ e ∈ s.rspLog, e.2 = requestResult e.1

/-- BLK_OUT, where it has a value, is the response delivered last (10_state.md R19). -/
abbrev OutputIsLastResponse (s : State) : Prop := ∀ v, s.blkOut = some v → s.rspLog.getLast?.map Prod.snd = some v

/-- Every value a host read returned is a response that was delivered (10_state.md R24). -/
abbrev ReadsDelivered (s : State) : Prop := ∀ v ∈ s.readLog, ∃ e ∈ s.rspLog, e.2 = v

/-- An OperandNoValue record names at least one field, and names OP exactly when it holds no OP value (60_exceptions.md R102). -/
def recordNamed : Fault → Prop
  | .operandNoValue missing op => missing ≠ [] ∧ (Field.op ∈ missing ↔ op = none)
  | .readBeforeResult => True

/-- Every fault record is one that 60_exceptions.md R102 allows. -/
abbrev FaultsNamed (s : State) : Prop := ∀ f ∈ s.faults, recordNamed f

/-- The invariant of the machine. -/
structure Inv (s : State) : Prop where
  bounded : PendingBounded s
  log : LogCorrect s
  output : OutputIsLastResponse s
  reads : ReadsDelivered s
  faults : FaultsNamed s

end Sys2Proof.Machine
end

