-- ==== Sys2Proof/Certificates/Slice0/Obligations.lean ====
section
/-! DEFINITION. The statements for the provers. Each docstring names the rule of spec/ it formalises. -/

section
open Sys2Proof Sys2Proof.Machine

/-! ### The datapath -/

/-- R60, R61, R62: Pack puts a at bits 63:32 and b at bits 31:0; HighHalf and LowHalf take those bits, in exact arithmetic, with the
worked examples of the three rules. -/
def Obligations.PackPlacesHalves : Prop :=
  (∀ a b : Half, (pack a b).toNat = a.toNat * 2 ^ 32 + b.toNat) ∧
    (∀ v : Block, (highHalf v).toNat = v.toNat / 2 ^ 32 ∧ (lowHalf v).toNat = v.toNat % 2 ^ 32) ∧
      pack 0b1 0b11 = 0x0000000100000003 ∧ highHalf 0x0000000100000001 = 0x00000001 ∧ lowHalf 0x000000010000000F = 0b1111

/-- The pack and unpack inverse laws of R63; that Pack puts the halves of a block together again is the spec's own inference there. -/
def Obligations.PackAndHalvesInverse : Prop :=
  (∀ a b : Half, highHalf (pack a b) = a ∧ lowHalf (pack a b) = b) ∧ ∀ v : Block, pack (highHalf v) (lowHalf v) = v

/-- R64: G0 in exact arithmetic, its zero low bits, and the rule's corner cases and worked example. -/
def Obligations.G0AddsWrapsThenShifts : Prop :=
  (∀ a b : Byte, (g0 a b).toNat = (a.toNat + b.toNat) % 256 * 4 % 256 ∧ (g0 a b) &&& 0x03 = 0) ∧
    g0 0xFF 0x01 = 0x00 ∧ g0 0xFF 0xFF = 0xF8 ∧ g0 0x82 0x94 = 0x58

/-- R65: G1 in exact arithmetic, its zero low bits, and the rule's corner cases and worked example. -/
def Obligations.G1AddsCarryWrapsThenShifts : Prop :=
  (∀ a b : Byte, (g1 a b).toNat = (a.toNat + b.toNat + 1) % 256 * 4 % 256 ∧ (g1 a b) &&& 0x03 = 0) ∧
    g1 0xFF 0x00 = 0x00 ∧ g1 0xFF 0xFF = 0xFC ∧ g1 0x00 0x00 = 0x04 ∧ g1 0x82 0x94 = 0x5C

/-- The laws of G0 and G1 that R66 lists, all but (a) the spec's own inferences: (a) commutativity, (b) G1 is G0 plus 4, (c) bits 7:6
of the operands have no effect and the formula over bits 5:0, (d) a result is four times a value below 64, (e) truncating only at the
end gives the same. -/
def Obligations.MixerLaws : Prop :=
  (∀ a b : Byte, g0 a b = g0 b a ∧ g1 a b = g1 b a) ∧
    (∀ a b : Byte, (g1 a b).toNat = ((g0 a b).toNat + 4) % 256) ∧
      (∀ a b a' b' : Byte, a.toNat % 64 = a'.toNat % 64 → b.toNat % 64 = b'.toNat % 64 → g0 a b = g0 a' b' ∧ g1 a b = g1 a' b') ∧
        (∀ a b : Byte, (g0 a b).toNat = (a.toNat % 64 + b.toNat % 64) % 64 * 4 % 256) ∧
          (∀ a b : Byte, ∃ n m : Fin 64, (g0 a b).toNat = 4 * n.val ∧ (g1 a b).toNat = 4 * m.val) ∧
            ∀ a b : Byte, (g0 a b).toNat = (a.toNat + b.toNat) * 4 % 256 ∧ (g1 a b).toNat = (a.toNat + b.toNat + 1) * 4 % 256

/-- R67: the bytes y0..y3 of F's result from the bytes x0..x3 of its operand, y2 with x2 AND x3, and the rule's corner cases. -/
def Obligations.RoundFunctionBytes : Prop :=
  (∀ v : Half,
    let y1 := g1 (byteOf 0 v ^^^ byteOf 1 v) (byteOf 2 v ^^^ byteOf 3 v)
    let y0 := g0 (byteOf 0 v) y1
    let y2 := g0 y1 (byteOf 2 v &&& byteOf 3 v)
    let y3 := g1 y2 (byteOf 3 v)
    byteOf 0 (roundF v) = y0 ∧ byteOf 1 (roundF v) = y1 ∧ byteOf 2 (roundF v) = y2 ∧ byteOf 3 (roundF v) = y3) ∧
    (∀ v : Half, byteOf 0 v = BitVec.ofNat 8 (v.toNat / 2 ^ 24) ∧ byteOf 1 v = BitVec.ofNat 8 (v.toNat / 2 ^ 16) ∧
      byteOf 2 v = BitVec.ofNat 8 (v.toNat / 2 ^ 8) ∧ byteOf 3 v = BitVec.ofNat 8 v.toNat) ∧
      roundF 0x00000000 = 0x10041044 ∧ roundF 0xFFFFFFFF = 0x0C040C30

/-- The laws (a), (b), (c) of R68, the spec's own inferences: the low bits of every byte of F's result are zero, bits 7:6 of every byte
of its operand have no effect, and F is not injective. -/
def Obligations.RoundFunctionIgnoresTopBits : Prop :=
  (∀ v : Half, roundF v &&& 0x03030303 = 0) ∧ (∀ v : Half, roundF v = roundF (v &&& 0x3F3F3F3F)) ∧
    roundF 0xC0C0C0C0 = roundF 0x00000000 ∧ roundF 0x80000000 = roundF 0x00000000 ∧ ¬Function.Injective roundF

/-- R69: ROUND, with no swap; the case right = key; a key change within 0xC0C0C0C0 has no effect; the worked example. -/
def Obligations.RoundUpdatesOneHalf : Prop :=
  (∀ l r key : Half, feistelRound l r key = (l ^^^ roundF (r ^^^ key), r)) ∧
    (∀ l r key : Half, r ^^^ key = 0 → feistelRound l r key = (l ^^^ 0x10041044, r)) ∧
      (∀ l r key m : Half, m &&& 0x3F3F3F3F = 0 → feistelRound l r (key ^^^ m) = feistelRound l r key) ∧
        feistelRound 0x00000005 0x00BC093F 0x00000001 = (0x40D06079, 0x00BC093F)

/-- The cross-mix of R81, that it is its own inverse (the spec's own inference), and that ENC and DEC each apply it before the first
and after the last round. -/
def Obligations.CrossMixIsItsOwnInverse : Prop :=
  (∀ l r : Half, xmix ⟨l, r⟩ = ⟨l, r ^^^ l⟩) ∧ (∀ h : Halves, xmix (xmix h) = h) ∧
    (∀ (x : Block) (k : SubkeySet),
      encrypt x k = packHalves (xmix (feistel4 (xmix (splitBlock (x ^^^ whiteningKey k))) (roundKeysEnc k)))) ∧
      ∀ (c : Block) (k : SubkeySet),
        decrypt c k = packHalves (xmix (feistel4 (xmix (splitBlock c)) (roundKeysDec k))) ^^^ whiteningKey k

/-- R82: four rounds, the halves swapped after rounds 1, 2 and 3 and not after round 4. -/
def Obligations.FeistelSchedule : Prop :=
  ∀ l0 r0 rk1 rk2 rk3 rk4 : Half,
    let l1 := r0
    let r1 := l0 ^^^ roundF (r0 ^^^ rk1)
    let l2 := r1
    let r2 := l1 ^^^ roundF (r1 ^^^ rk2)
    let l3 := r2
    let r3 := l2 ^^^ roundF (r2 ^^^ rk3)
    let l4 := l3 ^^^ roundF (r3 ^^^ rk4)
    feistel4 ⟨l0, r0⟩ ⟨rk1, rk2, rk3, rk4⟩ = ⟨l4, r3⟩

/-- R44: the whitening key is {K4, K5}, ENC's round keys are K0, K1, K2, K3 and DEC's are K3, K2, K1, K0. -/
def Obligations.OperandAssembly : Prop :=
  ∀ k : SubkeySet,
    (whiteningKey k).toNat = k.k4.toNat * 2 ^ 32 + k.k5.toNat ∧ roundKeysEnc k = ⟨k.k0, k.k1, k.k2, k.k3⟩ ∧
      roundKeysDec k = ⟨k.k3, k.k2, k.k1, k.k0⟩

/-- The round state of R16 (log entry 16): its six stages, each from the one before, and what ENC and DEC pack of the last. -/
def Obligations.StagesLeadToResult : Prop :=
  ∀ (x : Block) (k : SubkeySet),
    (∃ s0 s1 s2 s3 s4 s5 : Halves, encStages x k = [s0, s1, s2, s3, s4, s5] ∧ s0 = xmix (splitBlock (x ^^^ whiteningKey k)) ∧
      s1 = swappedRound s0 k.k0 ∧ s2 = swappedRound s1 k.k1 ∧ s3 = swappedRound s2 k.k2 ∧ s4 = finalRound s3 k.k3 ∧
      s5 = xmix s4 ∧ encrypt x k = packHalves s5) ∧
      ∃ s0 s1 s2 s3 s4 s5 : Halves, decStages x k = [s0, s1, s2, s3, s4, s5] ∧ s0 = xmix (splitBlock x) ∧
        s1 = swappedRound s0 k.k3 ∧ s2 = swappedRound s1 k.k2 ∧ s3 = swappedRound s2 k.k1 ∧ s4 = finalRound s3 k.k0 ∧
        s5 = xmix s4 ∧ decrypt x k = packHalves s5 ^^^ whiteningKey k

/-- R85: DEC(ENC(x, k), k) == x. -/
def Obligations.DecryptUndoesEncrypt : Prop :=
  ∀ (x : Block) (k : SubkeySet), decrypt (encrypt x k) k = x

/-- ENC(DEC(y, k), k) == y, as R86, the spec's own inference from R85, says. -/
def Obligations.EncryptUndoesDecrypt : Prop :=
  ∀ (y : Block) (k : SubkeySet), encrypt (decrypt y k) k = y

/-- As R87, the spec's own inference, says: ENC and DEC with a fixed subkey set are permutations of the blocks. -/
def Obligations.BlockOperationsArePermutations : Prop :=
  ∀ k : SubkeySet, Function.Bijective (fun x : Block => encrypt x k) ∧ Function.Bijective (fun y : Block => decrypt y k)

/-- As R88, the spec's own inference, says: whitening factors out of ENC and of DEC. -/
def Obligations.WhiteningFactorsOut : Prop :=
  ∀ (x y : Block) (k : SubkeySet),
    encrypt x k = encrypt (x ^^^ pack k.k4 k.k5) { k with k4 := 0, k5 := 0 } ∧
      decrypt y k = decrypt y { k with k4 := 0, k5 := 0 } ^^^ pack k.k4 k.k5

/-- As R89, the spec's own inference in (a) and (b), says: (a) a change of k4 or k5 changes every ciphertext; (b) a change of k0..k3
within 0xC0C0C0C0 changes no result; (c) the four sampled changes of V-K2 change the ciphertext. -/
def Obligations.WhatTheSubkeysChange : Prop :=
  (∀ (x : Block) (k : SubkeySet) (a b : Half), (a ≠ k.k4 ∨ b ≠ k.k5) → encrypt x { k with k4 := a, k5 := b } ≠ encrypt x k) ∧
    (∀ (x : Block) (k : SubkeySet) (m : Half), m &&& 0x3F3F3F3F = 0 →
      (encrypt x { k with k0 := k.k0 ^^^ m } = encrypt x k ∧ encrypt x { k with k1 := k.k1 ^^^ m } = encrypt x k ∧
        encrypt x { k with k2 := k.k2 ^^^ m } = encrypt x k ∧ encrypt x { k with k3 := k.k3 ^^^ m } = encrypt x k) ∧
        decrypt x { k with k0 := k.k0 ^^^ m } = decrypt x k ∧ decrypt x { k with k1 := k.k1 ^^^ m } = decrypt x k ∧
          decrypt x { k with k2 := k.k2 ^^^ m } = decrypt x k ∧ decrypt x { k with k3 := k.k3 ^^^ m } = decrypt x k) ∧
      encrypt 0xBC093C ⟨1 ^^^ 1, 2, 3, 4, 5, 6⟩ ≠ encrypt 0xBC093C ⟨1, 2, 3, 4, 5, 6⟩ ∧
        encrypt 0xBC093C ⟨1, 2 ^^^ 1, 3, 4, 5, 6⟩ ≠ encrypt 0xBC093C ⟨1, 2, 3, 4, 5, 6⟩ ∧
          encrypt 0xBC093C ⟨1, 2, 3 ^^^ 1, 4, 5, 6⟩ ≠ encrypt 0xBC093C ⟨1, 2, 3, 4, 5, 6⟩ ∧
            encrypt 0xBC093C ⟨1, 2, 3, 4 ^^^ 1, 5, 6⟩ ≠ encrypt 0xBC093C ⟨1, 2, 3, 4, 5, 6⟩

/-- As R90, the spec's own inference, says: differences within 0xC0C0C0C0 pass linearly through ENC and DEC. -/
def Obligations.LinearDifferences : Prop :=
  ∀ (d : Half) (x y : Block) (k : SubkeySet), d &&& 0x3F3F3F3F = 0 →
    encrypt (x ^^^ pack d 0) k = encrypt x k ^^^ pack d 0 ∧ encrypt (x ^^^ pack 0 d) k = encrypt x k ^^^ pack d d ∧
      decrypt (y ^^^ pack d 0) k = decrypt y k ^^^ pack d 0 ∧ decrypt (y ^^^ pack d d) k = decrypt y k ^^^ pack 0 d

/-- As R91, the spec's own inference, says: with a symmetric subkey set ENC and DEC are the same function and ENC is an involution; the
all-zero set is symmetric. -/
def Obligations.SymmetricSubkeysMakeInvolution : Prop :=
  (∀ (x : Block) (k : SubkeySet), k.k0 = k.k3 → k.k1 = k.k2 → k.k4 = 0 → k.k5 = 0 →
    encrypt x k = decrypt x k ∧ encrypt (encrypt x k) k = x) ∧
    ∀ x : Block, encrypt x ⟨0, 0, 0, 0, 0, 0⟩ = decrypt x ⟨0, 0, 0, 0, 0, 0⟩

/-! ### Encoding -/

/-- R42: where each field lies in the request word, as a number, and that the two directions of the layout are inverse. -/
def Obligations.RequestWordLayout : Prop :=
  (∀ r : Request, (wordOfRequest r).toNat =
    r.op.toNat + 2 ^ 1 * r.blk.toNat + 2 ^ 65 * r.k.k0.toNat + 2 ^ 97 * r.k.k1.toNat + 2 ^ 129 * r.k.k2.toNat +
      2 ^ 161 * r.k.k3.toNat + 2 ^ 193 * r.k.k4.toNat + 2 ^ 225 * r.k.k5.toNat) ∧
    (∀ r : Request, requestOfWord (wordOfRequest r) = r) ∧ ∀ w : ReqWord, wordOfRequest (requestOfWord w) = w

/-- As R45, the spec's own inference from R40, R41 and R100, says: every request word decodes, to exactly one operation, told by OP;
decode and encode are inverse on every instruction and on every word, so every operand value is valid and no bit is dropped. -/
def Obligations.EveryWordIsOneInstruction : Prop :=
  (∀ i : Instr, decodeWord (encode i) = i) ∧ (∀ w : ReqWord, encode (decodeWord w) = w) ∧
    (∀ w : ReqWord, decode w.toNat = .ok (decodeWord w)) ∧
      ∀ w : ReqWord, (w.toNat % 2 = 0 ∧ ∃ blk k, decodeWord w = .enc blk k) ∨ (w.toNat % 2 = 1 ∧ ∃ blk k, decodeWord w = .dec blk k)

/-- R18, R41: OP = 0 is ENC and its result ENC(blk, k), OP = 1 is DEC and its result DEC(blk, k). -/
def Obligations.OpSelectsOperation : Prop :=
  ∀ (blk : Block) (k : SubkeySet),
    decodeRequest ⟨0, blk, k⟩ = .enc blk k ∧ requestResult ⟨0, blk, k⟩ = encrypt blk k ∧
      decodeRequest ⟨1, blk, k⟩ = .dec blk k ∧ requestResult ⟨1, blk, k⟩ = decrypt blk k

/-- Four of the request words written in 95_test_vectors.md section 3, decoded: the two of program P1, the first of P3 and the DEC word
of P5. -/
def Obligations.WrittenWordsDecode : Prop :=
  decode 0x00000000C0000000A000000080000000600000004000000020000000001781278 = .ok (.enc 0xBC093C ⟨1, 2, 3, 4, 5, 6⟩) ∧
    decode 0x00000000C0000000A00000008000000060000000400000002C108D2CE00389255 =
      .ok (.dec 0x60846967001C492A ⟨1, 2, 3, 4, 5, 6⟩) ∧
      decode 0x000000000000000001416181A02040608020406081416181A02468ACF13579BDE =
        .ok (.enc 0x0123456789ABCDEF ⟨0x0A0B0C0D, 0x01020304, 0x01020304, 0x0A0B0C0D, 0, 0⟩) ∧
        decode 0x0CCCCCCCCAAAAAAAA8888888866666666444444442222222306379766FFDB2773 =
          .ok (.dec 0x831BCBB37FED93B9 ⟨0x11111111, 0x22222222, 0x33333333, 0x44444444, 0x55555555, 0x66666666⟩)

/-- The fixed length of R46, as log entry 12 reads it: a number is refused exactly when it has a bit above bit 256. -/
def Obligations.LongerNumbersRefused : Prop :=
  wordBound = 2 ^ 257 ∧
    ∀ w : Nat, (decode w = .error .longerThanRequestWord ↔ wordBound ≤ w) ∧
      (w < wordBound → ∃ i, decode w = .ok i ∧ (encode i).toNat = w)

/-- The syntax of R47, as log entry 18 reads it: a request written as a line assembles to that request and to its request word. -/
def Obligations.WrittenLineAssembles : Prop :=
  ∀ r : Request, assembleLine (renderRequest r) = .ok (.request r none) ∧ lineWord (.request r none) = some (wordOfRequest r)

/-- The syntax of R47, as log entry 18 reads it: a literal is accepted for a field exactly when it fits it. -/
def Obligations.LiteralMustFitItsField : Prop :=
  ∀ (width n : Nat) (cs : List Char), readLiteral (trimGaps cs) = some n →
    (n < 2 ^ width → readField width cs = .ok (BitVec.ofNat width n)) ∧ (2 ^ width ≤ n → readField width cs = .error .literalTooWide)

/-! ### The instructions -/

/-- R83: completing ENC answers a next state, whose BLK_OUT and whose new RSP_LOG entry hold the ciphertext, written out step by step;
with the rule's corner case and worked example. -/
def Obligations.EncDeliversCiphertext : Prop :=
  (∀ (x : Block) (k : SubkeySet) (s : State),
    let p := x ^^^ pack k.k4 k.k5
    let l0 := highHalf p
    let r0 := lowHalf p ^^^ l0
    let r1 := l0 ^^^ roundF (r0 ^^^ k.k0)
    let r2 := r0 ^^^ roundF (r1 ^^^ k.k1)
    let r3 := r1 ^^^ roundF (r2 ^^^ k.k2)
    let l4 := r2 ^^^ roundF (r3 ^^^ k.k3)
    let c := pack l4 (r3 ^^^ l4)
    exec (.enc x k) s = .next { s with blkOut := some c, rspLog := s.rspLog ++ [(⟨0, x, k⟩, c)] }) ∧
    encrypt 0 ⟨0, 0, 0, 0, 0, 0⟩ = 0xC06080D000804000 ∧ encrypt 0xBC093C ⟨1, 2, 3, 4, 5, 6⟩ = 0x60846967001C492A

/-- R84: completing DEC answers a next state, whose BLK_OUT and whose new RSP_LOG entry hold the plaintext, written out step by step;
with the rule's worked example. -/
def Obligations.DecDeliversPlaintext : Prop :=
  (∀ (c : Block) (k : SubkeySet) (s : State),
    let l0 := highHalf c
    let r0 := lowHalf c ^^^ l0
    let r1 := l0 ^^^ roundF (r0 ^^^ k.k3)
    let r2 := r0 ^^^ roundF (r1 ^^^ k.k2)
    let r3 := r1 ^^^ roundF (r2 ^^^ k.k1)
    let l4 := r2 ^^^ roundF (r3 ^^^ k.k0)
    let x := pack l4 (r3 ^^^ l4) ^^^ pack k.k4 k.k5
    exec (.dec c k) s = .next { s with blkOut := some x, rspLog := s.rspLog ++ [(⟨1, c, k⟩, x)] }) ∧
    decrypt 0x60846967001C492A ⟨1, 2, 3, 4, 5, 6⟩ = 0x0000000000BC093C

/-- R35: ENC and DEC change BLK_OUT and append one entry to RSP_LOG, and nothing else; issuing the same request twice yields the same
response twice. -/
def Obligations.EncAndDecFrame : Prop :=
  (∀ (i : Instr) (s t : State), exec i s = .next t →
    t.pending = s.pending ∧ t.faults = s.faults ∧ t.readLog = s.readLog ∧ t.requests = s.requests ∧ t.turns = s.turns ∧
      ∃ v, t.blkOut = some v ∧ t.rspLog = s.rspLog ++ [(encodeRequest i, v)]) ∧
    ∀ (i : Instr) (s s' t t' : State), exec i s = .next t → exec i s' = .next t' → t.blkOut = t'.blkOut

/-- R100: ENC and DEC complete, with their result, in every state and for every operand, and record no fault. -/
def Obligations.EncAndDecAlwaysComplete : Prop :=
  ∀ (i : Instr) (s : State), ∃ t, exec i s = .next t ∧ t.blkOut = some (resultOf i) ∧ t.faults = s.faults

/-- R22, R23: equal requests get equal responses, in any two runs, whatever else was pending or completed. -/
def Obligations.EqualRequestsGetEqualResponses : Prop :=
  ∀ (n m : Nat) (s s' t t' : State), LogCorrect s → LogCorrect s' → runSteps n s = .next t → runSteps m s' = .next t' →
    ∀ e ∈ t.rspLog, ∀ e' ∈ t'.rspLog, e.1 = e'.1 → e.2 = e'.2

/-! ### The steps -/

/-- A step runs the decoded request (R21, with the turns of log entry 1): with the CORE's turn, the oldest pending request is taken off
PENDING, decoded and executed, in the state whose PENDING and turns have moved on; the same when no turn is listed (log entry 2), and
for an instruction placed by withFetchWord (log entry 10). -/
def Obligations.StepRunsDecodedRequest : Prop :=
  (∀ (s : State) (r : Request) (rest : List Request) (ts : List Turn), s.pending = r :: rest → s.turns = .complete :: ts →
    step s = exec (decodeRequest r) { s with pending := rest, turns := ts }) ∧
    (∀ (s : State) (r : Request) (rest : List Request), s.pending = r :: rest → s.turns = [] →
      step s = exec (decodeRequest r) { s with pending := rest }) ∧
      ∀ (s : State) (nbits w : Nat) (i : Instr), decodeTableWord nbits w = some i →
        step (s.withFetchWord nbits w) = exec i { s with pending := s.pending.tail }

/-- R20: the three outcomes of an Issue (held: no step; OperandNoValue; accepted), that they are all the cases, and that a Complete or
a reset lifts the hold. -/
def Obligations.IssueOutcomes : Prop :=
  (∀ (s : State) (p : PortRequest),
    (Config.maxInflight ≤ s.pending.length → issueRequest Config.maxInflight p s = none) ∧
      (s.pending.length < Config.maxInflight → p.wellFormed = false →
        issueRequest Config.maxInflight p s = some { s with faults := s.faults ++ [.operandNoValue (undrivenFields p) p.op] }) ∧
        (s.pending.length < Config.maxInflight → ∀ r, p = driveRequest r →
          issueRequest Config.maxInflight p s = some { s with pending := s.pending ++ [r] }) ∧
          (p.wellFormed = true → ∃ r, p = driveRequest r)) ∧
    ∀ (s t : State) (p : PortRequest), s.pending.length = Config.maxInflight → (completeOldest s = .next t ∨ t = resetCore s) →
      issueRequest Config.maxInflight p t ≠ none

/-- R103: a request with a field that has no value raises one OperandNoValue, which names exactly the fields without value; it is not
added to PENDING and gets no response. The record holds OP as driven, as R102 says. That it names each field once is DEDUCED (log
entry 14), so this statement is derived. -/
def Obligations.OperandNoValueNamesTheFields : Prop :=
  ∀ (s : State) (p : PortRequest), s.pending.length < Config.maxInflight → (∃ f, p.hasValue f = false) →
    ∃ missing : List Field, (∀ f, f ∈ missing ↔ p.hasValue f = false) ∧ missing.Nodup ∧
      issueRequest Config.maxInflight p s = some { s with faults := s.faults ++ [.operandNoValue missing p.op] }

/-- R21: Complete takes the oldest pending request off PENDING, sets BLK_OUT to its Result and appends the pair to RSP_LOG. -/
def Obligations.CompleteDeliversOldest : Prop :=
  ∀ (s : State) (r : Request) (rest : List Request), s.pending = r :: rest →
    completeOldest s = .next { s with pending := rest, blkOut := some (requestResult r),
                                      rspLog := s.rspLog ++ [(r, requestResult r)] }

/-- R24, R104: a host read returns BLK_OUT's value and changes nothing, or, while BLK_OUT is NONE, returns no value and records
ReadBeforeResult. -/
def Obligations.HostReadOutcomes : Prop :=
  ∀ s : State, (∀ v, s.blkOut = some v → hostRead s = (some v, s)) ∧
    (s.blkOut = none → hostRead s = (none, { s with faults := s.faults ++ [.readBeforeResult] }))

/-- R120: a reset empties PENDING and sets BLK_OUT to NONE, in every state; RSP_LOG and FAULTS are kept and nothing else changes. -/
def Obligations.ResetClearsPendingAndOutput : Prop :=
  ∀ s : State, resetCore s = { s with pending := [], blkOut := none }

/-- The model's own bookkeeping around the operations (log entries 1, 3, 4 and 5): the turn taken leaves the list; a held request stays
at the input and any other leaves it; a value read is kept in readLog; a turn that no step is enabled for passes. -/
def Obligations.TurnsAroundTheOperations : Prop :=
  ∀ (s : State) (ts : List Turn),
    (∀ p rest, s.turns = .issue :: ts → s.requests = p :: rest →
      (issueRequest Config.maxInflight p s = none → step s = .next { s with turns := ts }) ∧
        ∀ t, issueRequest Config.maxInflight p s = some t → step s = .next { t with turns := ts, requests := rest }) ∧
      (s.turns = .issue :: ts → s.requests = [] → step s = .next { s with turns := ts }) ∧
        (s.turns = .complete :: ts → s.pending = [] → step s = .next { s with turns := ts }) ∧
          (s.turns = .read :: ts →
            step s = .next { (hostRead s).2 with turns := ts, readLog := s.readLog ++ (hostRead s).1.toList }) ∧
            (s.turns = .reset :: ts → step s = .next { resetCore s with turns := ts })

/-- Every step of the machine answers a next state: no fault or refusal ends a run (R100; log entries 3 and 13). -/
def Obligations.EveryStepCompletes : Prop :=
  ∀ s : State, ∃ t, step s = .next t

/-- The values of R19, R120 and R121: the spec's four pieces of state right after reset at the start of a run. -/
def Obligations.ResetState : Prop :=
  State.reset.pending = [] ∧ State.reset.blkOut = none ∧ State.reset.rspLog = [] ∧ State.reset.faults = []

/-- After a reset (R121, over runs with the turns of log entry 1): only a Complete gives BLK_OUT a value and only a reset takes it
away, so after a reset and before the first Complete BLK_OUT is NONE and a host read raises ReadBeforeResult. -/
def Obligations.OnlyCompleteGivesOutput : Prop :=
  (∀ s t : State, step s = .next t →
    t.blkOut = s.blkOut ∨ (t.blkOut = none ∧ ∃ ts, s.turns = .reset :: ts) ∨
      ∃ r rest, s.pending = r :: rest ∧ t.pending = rest ∧ t.blkOut = some (requestResult r)) ∧
    ∀ (n : Nat) (s t : State), s.blkOut = none → (∀ tn ∈ s.turns.take n, tn ≠ .complete) → n ≤ s.turns.length →
      runSteps n s = .next t → t.blkOut = none ∧ (∀ ts, t.turns = .read :: ts →
        step t = .next { t with turns := ts, faults := t.faults ++ [.readBeforeResult] })

/-- After a reset the CORE accepts a request at once (R122, with the turns and requests of log entries 1 and 4). -/
def Obligations.ReadyAfterReset : Prop :=
  ∀ (s : State) (r : Request) (rest : List PortRequest) (ts : List Turn), s.turns = .reset :: .issue :: ts →
    s.requests = driveRequest r :: rest →
      runSteps 2 s = .next { s with turns := ts, requests := rest, pending := [r], blkOut := none }

/-- The open order of R106 (with the turns of log entry 1): a reset and a Complete may come in either order: Complete first, and the
oldest request has its response; reset first, and it has none; PENDING and BLK_OUT end the same. -/
def Obligations.ResetAndCompleteInEitherOrder : Prop :=
  ∀ (s : State) (r : Request) (rest : List Request) (ts : List Turn), s.pending = r :: rest →
    runSteps 2 { s with turns := .complete :: .reset :: ts } =
        .next { s with turns := ts, pending := [], blkOut := none, rspLog := s.rspLog ++ [(r, requestResult r)] } ∧
      runSteps 2 { s with turns := .reset :: .complete :: ts } = .next { s with turns := ts, pending := [], blkOut := none }

/-- R102: a step appends at most one fault record and removes none; a step that appends one leaves PENDING, BLK_OUT and RSP_LOG as they
were; the codes; a state with a record is never a successful end. -/
def Obligations.FaultRecordsAreKept : Prop :=
  (∀ s t : State, step s = .next t →
    t.faults = s.faults ∨ ∃ f, t.faults = s.faults ++ [f] ∧ t.pending = s.pending ∧ t.blkOut = s.blkOut ∧ t.rspLog = s.rspLog) ∧
    (∀ missing op, faultCode (.operandNoValue missing op) = 1) ∧ faultCode .readBeforeResult = 2 ∧
      ∀ s : State, s.faults ≠ [] → ¬Successful s

/-- R127: an accepted request holds the values its fields had at the Issue, and what the host drives later does not change the response
to a pending request. -/
def Obligations.OperandsSampledAtIssue : Prop :=
  (∀ (s : State) (op : Bit) (blk : Block) (k0 k1 k2 k3 k4 k5 : Half), s.pending.length < Config.maxInflight →
    issueRequest Config.maxInflight ⟨some op, some blk, some k0, some k1, some k2, some k3, some k4, some k5⟩ s =
      some { s with pending := s.pending ++ [⟨op, blk, ⟨k0, k1, k2, k3, k4, k5⟩⟩] }) ∧
    ∀ (s : State) (later : List PortRequest),
      ∃ t, completeOldest s = .next t ∧ completeOldest { s with requests := later } = .next { t with requests := later }

/-! ### Runs -/

/-- The invariant at reset (R19, R120). -/
def Obligations.InvariantAtReset : Prop := Inv State.reset

/-- Every step keeps the invariant: PENDING within MAX_INFLIGHT, every logged response the Result of its request, BLK_OUT the last
response, every value read a delivered response, every fault record of the form R102 gives (R19, R20, R21, R24, R102). -/
def Obligations.StepKeepsInvariant : Prop :=
  ∀ s t : State, Inv s → step s = .next t → Inv t

/-- The order of R36, the spec's own inference, over runs with the turns and requests of log entries 1, 2 and 4: over a run that starts
with nothing pending and takes no reset (the turns that come after its `n` steps may hold resets), the k-th response is Result of the
k-th request issued, what is issued and not answered is pending in that order, and requests are taken from the host in its order. -/
def Obligations.ResponsesInIssueOrder : Prop :=
  ∀ (n : Nat) (s t : State), s.pending = [] → (∀ tn ∈ s.turns.take n, tn ≠ .reset) → runSteps n s = .next t →
    ∃ j c : Nat, t.requests = s.requests.drop j ∧ c ≤ ((s.requests.take j).filterMap sampleRequest).length ∧
      t.rspLog = s.rspLog ++ (((s.requests.take j).filterMap sampleRequest).take c).map answered ∧
        t.pending = ((s.requests.take j).filterMap sampleRequest).drop c

/-- The fairness of R124, with the bound of log entry 2: from every state, within as many steps as there are turns listed and requests
pending and with no reset taken on the way, either every pending request is answered, in order, or a reset is the next turn, the oldest
`c` of them are answered, in order, and the others, which that reset removes, are still pending (log entries 1 and 2). -/
def Obligations.EveryPendingRequestCompletes : Prop :=
  ∀ s : State, ∃ n t, n ≤ s.turns.length + s.pending.length ∧ runSteps n s = .next t ∧ (∀ tn ∈ s.turns.take n, tn ≠ .reset) ∧
    (s.rspLog ++ s.pending.map answered <+: t.rspLog ∨
      ∃ c ts accepted, t.turns = .reset :: ts ∧ c < s.pending.length ∧
        t.rspLog = s.rspLog ++ (s.pending.take c).map answered ∧ t.pending = s.pending.drop c ++ accepted)

/-- The end of a run of R117, with the bound of log entry 2: every run comes to its end, where nothing changes any more (log entry 2).
-/
def Obligations.EveryRunEnds : Prop :=
  ∀ s : State, ∃ n t, n ≤ s.turns.length + s.pending.length + 2 * s.requests.length ∧ runSteps n s = .next t ∧ RunOver t ∧
    t.turns = [] ∧ step t = .next t

end
end

