-- ==== Sys2Proof/Laws/Datapath.lean ====
section
/-! SUPPORT. Lemmas that unfold the datapath's steps once: the shift, the halves of each stage. -/

namespace Sys2Proof.Machine

/-- The shift by 2 in exact arithmetic (00_scope.md R8). -/
theorem shl8_two_toNat (x : Byte) : (shl8 x 2).toNat = x.toNat * 4 % 256 := by
  simp [shl8, BitVec.toNat_shiftLeft, Nat.shiftLeft_eq]

@[simp] theorem xmix_left (h : Halves) : (xmix h).left = h.left := rfl

@[simp] theorem xmix_right (h : Halves) : (xmix h).right = h.right ^^^ h.left := rfl

@[simp] theorem swappedRound_left (h : Halves) (key : Half) : (swappedRound h key).left = h.right := rfl

@[simp] theorem swappedRound_right (h : Halves) (key : Half) :
    (swappedRound h key).right = h.left ^^^ roundF (h.right ^^^ key) := rfl

@[simp] theorem finalRound_left (h : Halves) (key : Half) :
    (finalRound h key).left = h.left ^^^ roundF (h.right ^^^ key) := rfl

@[simp] theorem finalRound_right (h : Halves) (key : Half) : (finalRound h key).right = h.right := rfl

/-- The last stage is what ENC packs (10_state.md R16). -/
theorem stageStates_last (h : Halves) (rk : RoundKeys) :
    (stageStates h rk).getLast? = some (xmix (feistel4 (xmix h) rk)) := rfl

end Sys2Proof.Machine
end

