-- ==== Sys2Proof/Laws/Decode.lean ====
section
/-! SUPPORT. Lemmas about requests, instructions and the sampling of the port. -/

namespace Sys2Proof

/-- An OP is 0 or 1 (30_encoding.md R41). -/
theorem bit_cases (b : Bit) : b = 0 ∨ b = 1 := by
  have h := b.isLt
  rcases Nat.lt_or_ge b.toNat 1 with h0 | h1
  · exact .inl (BitVec.eq_of_toNat_eq (by simp; omega))
  · exact .inr (BitVec.eq_of_toNat_eq (by simp; omega))

@[simp] theorem decodeRequest_op_zero (blk : Block) (k : SubkeySet) : decodeRequest ⟨0, blk, k⟩ = .enc blk k := rfl

@[simp] theorem decodeRequest_op_one (blk : Block) (k : SubkeySet) : decodeRequest ⟨1, blk, k⟩ = .dec blk k := rfl

@[simp] theorem decodeRequest_encodeRequest (i : Instr) : decodeRequest (encodeRequest i) = i := by
  cases i <;> rfl

@[simp] theorem encodeRequest_decodeRequest (r : Request) : encodeRequest (decodeRequest r) = r := by
  obtain ⟨op, blk, k⟩ := r
  rcases bit_cases op with rfl | rfl <;> rfl

/-- The bound of the request words is 2 to the power 257. -/
theorem wordBound_eq : wordBound = 2 ^ 257 := by unfold wordBound; omega

theorem wordOfNat_of_lt {w : Nat} (h : w < wordBound) : wordOfNat w = some (BitVec.ofNat 257 w) := if_pos h

theorem wordOfNat_of_ge {w : Nat} (h : wordBound ≤ w) : wordOfNat w = none := if_neg (Nat.not_lt.2 h)

@[simp] theorem sampleRequest_driveRequest (r : Request) : sampleRequest (driveRequest r) = some r := rfl

@[simp] theorem missingField_some {α : Type} (f : Field) (a : α) : missingField f (some a) = [] := rfl

@[simp] theorem missingField_none {α : Type} (f : Field) : missingField f (none : Option α) = [f] := rfl

/-- A request is sampled exactly when it is well-formed. -/
theorem sampleRequest_isSome (p : PortRequest) : (sampleRequest p).isSome = p.wellFormed := by
  obtain ⟨op, b, k0, k1, k2, k3, k4, k5⟩ := p
  cases op <;> cases b <;> cases k0 <;> cases k1 <;> cases k2 <;> cases k3 <;> cases k4 <;> cases k5 <;> rfl

/-- The only presented request that samples to `r` is `r` with every field driven. -/
theorem eq_driveRequest_of_sampleRequest {p : PortRequest} {r : Request} (h : sampleRequest p = some r) : p = driveRequest r := by
  unfold sampleRequest at h
  split at h
  · cases h
    obtain ⟨op, b, k0, k1, k2, k3, k4, k5⟩ := p
    simp_all [driveRequest]
  · cases h

/-- Of the eight fields, the missing ones are none exactly when the request is sampled. -/
theorem undrivenFields_eq_nil (p : PortRequest) : undrivenFields p = [] ↔ p.wellFormed = true := by
  obtain ⟨op, b, k0, k1, k2, k3, k4, k5⟩ := p
  cases op <;> cases b <;> cases k0 <;> cases k1 <;> cases k2 <;> cases k3 <;> cases k4 <;> cases k5 <;>
    simp [undrivenFields, PortRequest.wellFormed]

end Sys2Proof
end

