-- ==== Sys2Proof/Laws/State.lean ====
section
/-! SUPPORT. What each unconditional operation on the state leaves in each field, and the fields of the state after reset. -/

namespace Sys2Proof.Machine

@[simp] theorem raiseFault_pending (f : Fault) (s : State) : (raiseFault f s).pending = s.pending := rfl
@[simp] theorem raiseFault_blkOut (f : Fault) (s : State) : (raiseFault f s).blkOut = s.blkOut := rfl
@[simp] theorem raiseFault_rspLog (f : Fault) (s : State) : (raiseFault f s).rspLog = s.rspLog := rfl
@[simp] theorem raiseFault_faults (f : Fault) (s : State) : (raiseFault f s).faults = s.faults ++ [f] := rfl
@[simp] theorem raiseFault_readLog (f : Fault) (s : State) : (raiseFault f s).readLog = s.readLog := rfl
@[simp] theorem raiseFault_requests (f : Fault) (s : State) : (raiseFault f s).requests = s.requests := rfl
@[simp] theorem raiseFault_turns (f : Fault) (s : State) : (raiseFault f s).turns = s.turns := rfl

@[simp] theorem acceptRequest_pending (r : Request) (s : State) : (acceptRequest r s).pending = s.pending ++ [r] := rfl
@[simp] theorem acceptRequest_blkOut (r : Request) (s : State) : (acceptRequest r s).blkOut = s.blkOut := rfl
@[simp] theorem acceptRequest_rspLog (r : Request) (s : State) : (acceptRequest r s).rspLog = s.rspLog := rfl
@[simp] theorem acceptRequest_faults (r : Request) (s : State) : (acceptRequest r s).faults = s.faults := rfl
@[simp] theorem acceptRequest_readLog (r : Request) (s : State) : (acceptRequest r s).readLog = s.readLog := rfl
@[simp] theorem acceptRequest_requests (r : Request) (s : State) : (acceptRequest r s).requests = s.requests := rfl
@[simp] theorem acceptRequest_turns (r : Request) (s : State) : (acceptRequest r s).turns = s.turns := rfl

@[simp] theorem deliver_pending (r : Request) (v : Block) (s : State) : (deliver r v s).pending = s.pending := rfl
@[simp] theorem deliver_blkOut (r : Request) (v : Block) (s : State) : (deliver r v s).blkOut = some v := rfl
@[simp] theorem deliver_rspLog (r : Request) (v : Block) (s : State) : (deliver r v s).rspLog = s.rspLog ++ [(r, v)] := rfl
@[simp] theorem deliver_faults (r : Request) (v : Block) (s : State) : (deliver r v s).faults = s.faults := rfl
@[simp] theorem deliver_readLog (r : Request) (v : Block) (s : State) : (deliver r v s).readLog = s.readLog := rfl
@[simp] theorem deliver_requests (r : Request) (v : Block) (s : State) : (deliver r v s).requests = s.requests := rfl
@[simp] theorem deliver_turns (r : Request) (v : Block) (s : State) : (deliver r v s).turns = s.turns := rfl

@[simp] theorem resetCore_pending (s : State) : (resetCore s).pending = [] := rfl
@[simp] theorem resetCore_blkOut (s : State) : (resetCore s).blkOut = none := rfl
@[simp] theorem resetCore_rspLog (s : State) : (resetCore s).rspLog = s.rspLog := rfl
@[simp] theorem resetCore_faults (s : State) : (resetCore s).faults = s.faults := rfl
@[simp] theorem resetCore_readLog (s : State) : (resetCore s).readLog = s.readLog := rfl
@[simp] theorem resetCore_requests (s : State) : (resetCore s).requests = s.requests := rfl
@[simp] theorem resetCore_turns (s : State) : (resetCore s).turns = s.turns := rfl

@[simp] theorem reset_pending : State.reset.pending = [] := rfl
@[simp] theorem reset_blkOut : State.reset.blkOut = none := rfl
@[simp] theorem reset_rspLog : State.reset.rspLog = [] := rfl
@[simp] theorem reset_faults : State.reset.faults = [] := rfl
@[simp] theorem reset_readLog : State.reset.readLog = [] := rfl
@[simp] theorem reset_requests : State.reset.requests = [] := rfl
@[simp] theorem reset_turns : State.reset.turns = [] := rfl

end Sys2Proof.Machine
end

