-- ==== Sys2Proof/Laws/Ops.lean ====
section
/-! SUPPORT. Each conditional operation on the state: everything it can do, said once. -/

namespace Sys2Proof.Machine

/-- Presenting a request either accepts it or records the fields it lacks (10_state.md R20). -/
theorem presentRequest_cases (p : PortRequest) (s : State) :
    (∃ r, sampleRequest p = some r ∧ presentRequest p s = acceptRequest r s) ∨
      (sampleRequest p = none ∧ presentRequest p s = raiseFault (.operandNoValue (undrivenFields p) p.op) s) := by
  unfold presentRequest
  split
  · exact .inl ⟨_, ‹_›, rfl⟩
  · exact .inr ⟨‹_›, rfl⟩

@[simp] theorem presentRequest_driveRequest (r : Request) (s : State) :
    presentRequest (driveRequest r) s = acceptRequest r s := by
  simp [presentRequest]

/-- Presenting a request does not look at the host's other requests. -/
theorem presentRequest_requests (p : PortRequest) (rest : List PortRequest) (s : State) :
    { presentRequest p s with requests := rest } = presentRequest p { s with requests := rest } := by
  unfold presentRequest
  split <;> rfl

/-- An Issue turn leaves the state alone, or presents the head of the host's requests (10_state.md R20). -/
theorem issueNext_cases (cap : Nat) (s : State) :
    issueNext cap s = s ∨
      ∃ p rest, s.requests = p :: rest ∧ s.pending.length < cap ∧
        issueNext cap s = presentRequest p { s with requests := rest } := by
  unfold issueNext issueRequest
  split
  · exact .inl rfl
  · split
    · rename_i h
      split at h
      · cases h
        exact .inr ⟨_, _, ‹_›, ‹_›, presentRequest_requests _ _ s⟩
      · cases h
    · exact .inl rfl

/-- A read turn keeps BLK_OUT's value for the host, or records ReadBeforeResult (10_state.md R24). -/
theorem readBlkOut_cases (s : State) :
    (∃ v, s.blkOut = some v ∧ readBlkOut s = { s with readLog := s.readLog ++ [v] }) ∨
      (s.blkOut = none ∧ readBlkOut s = raiseFault .readBeforeResult s) := by
  obtain ⟨o, h⟩ : ∃ o, s.blkOut = o := ⟨_, rfl⟩
  cases o with
  | some v => exact .inl ⟨v, h, by simp [readBlkOut, hostRead, h]⟩
  | none => exact .inr ⟨h, by simp [readBlkOut, hostRead, h]⟩

end Sys2Proof.Machine
end

