-- ==== Sys2Proof/Laws/PerInstr.lean ====
section
/-! SUPPORT. Statements for every instruction, one lemma per constructor. -/

namespace Sys2Proof.Laws.CarriedByRequest

/-- The instruction is well-formed and the request that carries it decodes to it, with its OP code in OP (30_encoding.md R40, R41). -/
def Statement (i : Instr) : Prop :=
  i.wellFormed = true ∧ decodeRequest (encodeRequest i) = i ∧ (encodeRequest i).op = opCode i

theorem enc (blk : Block) (k : SubkeySet) : Statement (.enc blk k) := ⟨rfl, rfl, rfl⟩

theorem dec (blk : Block) (k : SubkeySet) : Statement (.dec blk k) := ⟨rfl, rfl, rfl⟩

end Sys2Proof.Laws.CarriedByRequest
end

