-- ==== Sys2Proof/Laws/Step.lean ====
section
/-! SUPPORT. What a step can do, said once; later proofs cite these lemmas and do not unfold the step. -/

namespace Sys2Proof.Machine

/-- Both meanings deliver the instruction's result as the response to its request. -/
theorem exec_eq (i : Instr) (s : State) : exec i s = .next (deliver (encodeRequest i) (resultOf i) s) := by
  cases i <;> rfl

/-- Completing the oldest request delivers its result (10_state.md R21). -/
theorem completeOldest_cons {s : State} {r : Request} {rest : List Request} (h : s.pending = r :: rest) :
    completeOldest s = .next (deliver r (requestResult r) { s with pending := rest }) := by
  simp only [completeOldest, h, exec_eq, encodeRequest_decodeRequest]
  rfl

theorem completeOldest_nil {s : State} (h : s.pending = []) : completeOldest s = .next s := by
  simp [completeOldest, h]

/-- What a turn can do: nothing, an Issue, a Complete, a read or a reset (60_exceptions.md R106). -/
inductive Happens (cap : Nat) (s : State) : Turn → State → Prop where
  | noIssue : Happens cap s .issue s
  | issue (p : PortRequest) (rest : List PortRequest) (hr : s.requests = p :: rest) (hc : s.pending.length < cap) :
      Happens cap s .issue (presentRequest p { s with requests := rest })
  | noComplete (hp : s.pending = []) : Happens cap s .complete s
  | complete (r : Request) (rest : List Request) (hp : s.pending = r :: rest) :
      Happens cap s .complete (deliver r (requestResult r) { s with pending := rest })
  | read : Happens cap s .read (readBlkOut s)
  | reset : Happens cap s .reset (resetCore s)

/-- Every turn answers a next state, and that state is one the turn can lead to. -/
theorem takeTurn_next (cap : Nat) (tn : Turn) (s : State) : ∃ t, takeTurn cap tn s = .next t ∧ Happens cap s tn t := by
  cases tn with
  | issue =>
    refine ⟨_, rfl, ?_⟩
    rcases issueNext_cases cap s with h | ⟨p, rest, hr, hc, h⟩ <;> rw [h]
    · exact .noIssue
    · exact .issue p rest hr hc
  | complete =>
    cases h : s.pending with
    | nil => exact ⟨_, completeOldest_nil h, .noComplete h⟩
    | cons r rest => exact ⟨_, completeOldest_cons h, .complete r rest h⟩
  | read => exact ⟨_, rfl, .read⟩
  | reset => exact ⟨_, rfl, .reset⟩

/-- Everything a step can do: take the listed turn, take the turn that drains the run, or, when the run is over, nothing. -/
theorem stepWith_cases {cap : Nat} {s t : State} (h : stepWith cap s = .next t) :
    (∃ tn ts, s.turns = tn :: ts ∧ Happens cap { s with turns := ts } tn t) ∨
      (∃ tn, s.turns = [] ∧ drainTurn s = some tn ∧ Happens cap s tn t) ∨
        (s.turns = [] ∧ drainTurn s = none ∧ t = s) := by
  unfold stepWith at h
  split at h
  · rename_i tn ts htn
    obtain ⟨t', ht', hh⟩ := takeTurn_next cap tn { s with turns := ts }
    rw [ht', Host.Outcome.next.injEq] at h
    exact .inl ⟨tn, ts, htn, h ▸ hh⟩
  · split at h
    · rename_i tn hd
      obtain ⟨t', ht', hh⟩ := takeTurn_next cap tn s
      rw [ht', Host.Outcome.next.injEq] at h
      exact .inr (.inl ⟨tn, ‹_›, hd, h ▸ hh⟩)
    · rw [Host.Outcome.next.injEq] at h
      exact .inr (.inr ⟨‹_›, ‹_›, h.symm⟩)

/-- A drain turn is a Complete or an Issue, never a read or a reset. -/
theorem drainTurn_some {s : State} {tn : Turn} (h : drainTurn s = some tn) :
    (tn = .complete ∧ s.pending ≠ []) ∨ (tn = .issue ∧ s.pending = [] ∧ s.requests ≠ []) := by
  unfold drainTurn at h
  split at h <;> simp_all

end Sys2Proof.Machine
end

