-- ==== Sys2Proof/Tests/Slice0.lean ====
section
/-! SUPPORT. Tests of the model against values written in spec/ (95_test_vectors.md unless said otherwise), and, for each statement with
hypotheses, a witness that meets them. -/

namespace Sys2Proof.Tests
open Sys2Proof.Machine

/-! ### Small values -/

/-- K = [1, 2, 3, 4, 5, 6]. -/
def keys : SubkeySet := ⟨1, 2, 3, 4, 5, 6⟩

/-- The symmetric set Ks of V-L12. -/
def symmetricKeys : SubkeySet := ⟨0x0A0B0C0D, 0x01020304, 0x01020304, 0x0A0B0C0D, 0, 0⟩

/-- The ENC request of program P1. -/
def encRequest : Request := ⟨0, 0xBC093C, keys⟩

/-- The DEC request of program P1. -/
def decRequest : Request := ⟨1, 0x60846967001C492A, keys⟩

/-- A state with some requests pending, some presented, and some turns to come. -/
def small (pending : List Request) (requests : List PortRequest) (turns : List Turn) : State :=
  { State.reset with pending := pending, requests := requests, turns := turns }

/-- The state an outcome goes on to, if it goes on. -/
def nextState : Host.Outcome State Fault Refusal → Option State
  | .next s => some s
  | .fault _ => none
  | .refused _ => none

/-- The third line of program P4: ENC with every field 0 but K5, which is undriven. -/
def undrivenK5 : PortRequest := { driveRequest ⟨0, 0, ⟨0, 0, 0, 0, 0, 0⟩⟩ with k5 := none }

/-! ### Well-formedness: an ill-formed request for each check (60_exceptions.md R103) -/

theorem test_driven_wellFormed : (driveRequest encRequest).wellFormed = true := by decide
theorem test_no_op_illFormed : PortRequest.wellFormed { driveRequest encRequest with op := none } = false := by decide
theorem test_no_blk_illFormed : PortRequest.wellFormed { driveRequest encRequest with blkIn := none } = false := by decide
theorem test_no_k0_illFormed : PortRequest.wellFormed { driveRequest encRequest with k0 := none } = false := by decide
theorem test_no_k1_illFormed : PortRequest.wellFormed { driveRequest encRequest with k1 := none } = false := by decide
theorem test_no_k2_illFormed : PortRequest.wellFormed { driveRequest encRequest with k2 := none } = false := by decide
theorem test_no_k3_illFormed : PortRequest.wellFormed { driveRequest encRequest with k3 := none } = false := by decide
theorem test_no_k4_illFormed : PortRequest.wellFormed { driveRequest encRequest with k4 := none } = false := by decide
theorem test_no_k5_illFormed : PortRequest.wellFormed undrivenK5 = false := by decide

/-! ### Decoding (30_encoding.md R42; the words are those of programs P1 and P3) -/

theorem test_decode_enc : decodeWord 0x00000000C0000000A000000080000000600000004000000020000000001781278 = .enc 0xBC093C keys := by
  decide

theorem test_decode_dec :
    decodeWord 0x00000000C0000000A00000008000000060000000400000002C108D2CE00389255 = .dec 0x60846967001C492A keys := by
  decide

/-- One bit in each field, at the places R42's table gives: bit 0 is OP, 1 is BLK_IN's lowest, 64 its highest, 65, 97, 129, 161, 193 and
225 are the lowest of K0 to K5, 256 is K5's highest. -/
theorem test_decode_field_edges :
    decodeWord (1#257 <<< 0 ||| 1#257 <<< 1 ||| 1#257 <<< 64 ||| 1#257 <<< 65 ||| 1#257 <<< 97 ||| 1#257 <<< 129 ||| 1#257 <<< 161 |||
      1#257 <<< 193 ||| 1#257 <<< 225 ||| 1#257 <<< 256) =
      .dec 0x8000000000000001 ⟨1, 1, 1, 1, 1, 0x80000001⟩ := by
  decide

theorem test_encode_p3 :
    encode (.enc 0x0123456789ABCDEF symmetricKeys) = 0x000000000000000001416181A02040608020406081416181A02468ACF13579BDE := by
  decide

/-- The table's rows: OP is bit 0 (opcode_table.json match and mask), every other bit 0. -/
theorem test_table_word_enc : decodeTableWord 8 0 = some (.enc 0 ⟨0, 0, 0, 0, 0, 0⟩) := by decide
theorem test_table_word_dec : decodeTableWord 8 1 = some (.dec 0 ⟨0, 0, 0, 0, 0, 0⟩) := by decide

/-! ### The datapath -/

/-- V-G3, V-G6, V-G11, V-G12. -/
theorem test_g0 : g0 0x3F 0x00 = 0xFC ∧ g0 0x7F 0x81 = 0x00 ∧ g0 0xFF 0xFF = 0xF8 ∧ g0 0x82 0x94 = 0x58 := by decide
theorem test_g1 : g1 0x3F 0x00 = 0x00 ∧ g1 0x7F 0x81 = 0x04 ∧ g1 0xFF 0xFF = 0xFC ∧ g1 0x82 0x94 = 0x5C := by decide

/-- V-F5 (which an XOR in y2 would change), V-F9, V-F11. -/
theorem test_roundF : roundF 0x01020304 = 0xB42CB0D4 ∧ roundF 0xDEADBEEF = 0xC81408E0 ∧ roundF 0x000000FF = 0x00000000 := by decide

/-- V-R3. -/
theorem test_round : feistelRound 0x12345678 0x9ABCDEF0 0x0F0F0F0F = (0xB660C228, 0x9ABCDEF0) := by decide

/-- The trace of V-E3 (10_state.md R16). -/
theorem test_encStages : encStages 0xBC093C keys =
    [⟨0x00000005, 0x00BC093F⟩, ⟨0x00BC093F, 0x40D06079⟩, ⟨0x40D06079, 0xC00C49CF⟩, ⟨0xC00C49CF, 0x6098204D⟩,
      ⟨0x60846967, 0x6098204D⟩, ⟨0x60846967, 0x001C492A⟩] := by
  decide

/-! ### The instructions, one step each -/

/-- V-E5, completed from PENDING. -/
theorem test_step_enc :
    (nextState (step (small [⟨0, 0x0123456789ABCDEF, ⟨0x11111111, 0x22222222, 0x33333333, 0x44444444, 0x55555555, 0x66666666⟩⟩] []
      [.complete]))).map (fun t => (t.pending, t.blkOut)) = some ([], some 0x831BCBB37FED93B9) := by
  decide

/-- V-D2, completed from PENDING. -/
theorem test_step_dec :
    (nextState (step (small [⟨1, 0xFFFFFFFFFFFFFFFF, ⟨0xFFFFFFFF, 0xFFFFFFFF, 0xFFFFFFFF, 0xFFFFFFFF, 0xFFFFFFFF, 0xFFFFFFFF⟩⟩] []
      [.complete]))).map (fun t => (t.pending, t.blkOut)) = some ([], some 0x6FEFFF7F10B03050) := by
  decide

/-- An instruction placed by withFetchWord is the next to run: ENC of zeros is V-E1. -/
theorem test_placed_word_runs :
    (nextState (step (State.reset.withFetchWord 8 0))).map State.blkOut = some (some 0xC06080D000804000) := by
  decide

/-! ### The host's steps (programs P4 and P5) -/

theorem test_issue_undriven_k5 :
    (nextState (stepWith 1 (small [] [undrivenK5] [.issue]))).map (fun t => (t.pending, t.faults)) =
      some ([], [.operandNoValue [.k5] (some 0)]) := by
  decide

theorem test_issue_held_when_full :
    (nextState (stepWith 1 (small [encRequest] [driveRequest decRequest] [.issue]))).map (fun t => (t.pending, t.requests)) =
      some ([encRequest], [driveRequest decRequest]) := by
  decide

theorem test_read_before_result :
    (nextState (step (small [] [] [.read]))).map (fun t => (t.readLog, t.faults)) = some ([], [.readBeforeResult]) := by
  decide

theorem test_read_returns_output :
    (nextState (step { small [] [] [.read] with blkOut := some 0xBC093C })).map (fun t => (t.readLog, t.blkOut, t.faults)) =
      some ([0xBC093C], some 0xBC093C, []) := by
  decide

theorem test_reset_abandons_pending :
    (nextState (step { small [encRequest] [] [.reset] with blkOut := some 1, faults := [.readBeforeResult] })).map
      (fun t => (t.pending, t.blkOut, t.rspLog, t.faults)) = some ([], none, [], [.readBeforeResult]) := by
  decide

/-! ### The textual syntax (30_encoding.md R47, R48) -/

/-- The first ENC line of program P1. -/
theorem test_assemble_enc :
    assembleLine "ENC 0xBC093C, 1, 2, 3, 4, 5, 6                ; => 0x60846967001C492A".toList =
      .ok (.request encRequest (some 0x60846967001C492A)) := by
  decide

theorem test_assemble_mixed_case_and_bases :
    assembleLine "dEc 0b1_01, 0xff,2,3 , 4, 5, 4294967295".toList = .ok (.request ⟨1, 5, ⟨0xFF, 2, 3, 4, 5, 0xFFFFFFFF⟩⟩ none) := by
  decide

theorem test_assemble_literal_too_wide : assembleLine "ENC 0, 0, 0, 0, 0, 0, 4294967296".toList = .error .literalTooWide := by decide

theorem test_assemble_five_subkeys : assembleLine "ENC 0, 0, 0, 0, 0, 0".toList = .error .wrongOperandCount := by decide

theorem test_assemble_actions :
    assembleLine "RESET".toList = .ok .reset ∧ assembleLine "READ   ; returns 0xBC093C".toList = .ok .read := by
  decide

theorem test_stated_response_holds : statedHolds (.request encRequest (some 0x60846967001C492A)) = true := by decide

theorem test_load_program :
    loadProgram [.reset, .request encRequest none, .read] State.reset =
      small [] [driveRequest encRequest] [.reset, .issue, .complete, .read] := by
  decide

/-! ### Witnesses: values that meet the hypotheses of the statements, a clause at a time -/

theorem witness_MixerLaws : (0x40 : Byte).toNat % 64 = (0x00 : Byte).toNat % 64 ∧ (0xFF : Byte).toNat % 64 = (0x3F : Byte).toNat % 64 := by
  decide

theorem witness_RoundUpdatesOneHalf : (0x5A5A5A5A : Half) ^^^ 0x5A5A5A5A = 0 ∧ (0xC0C0C0C0 : Half) &&& 0x3F3F3F3F = 0 := by decide

theorem witness_WhatTheSubkeysChange :
    ((4 : Half) ≠ keys.k4 ∨ keys.k5 ≠ keys.k5) ∧ (keys.k4 ≠ keys.k4 ∨ (7 : Half) ≠ keys.k5) ∧ (0xC0C0C0C0 : Half) &&& 0x3F3F3F3F = 0 := by
  decide

theorem witness_LinearDifferences : (0x80000000 : Half) &&& 0x3F3F3F3F = 0 ∧ (0x00000040 : Half) &&& 0x3F3F3F3F = 0 := by decide

theorem witness_SymmetricSubkeysMakeInvolution :
    symmetricKeys.k0 = symmetricKeys.k3 ∧ symmetricKeys.k1 = symmetricKeys.k2 ∧ symmetricKeys.k4 = 0 ∧ symmetricKeys.k5 = 0 := by
  decide

theorem witness_LongerNumbersRefused : wordBound ≤ wordBound ∧ wordBound - 1 < wordBound := by
  unfold wordBound
  omega

theorem witness_LiteralMustFitItsField :
    readLiteral (trimGaps " 255".toList) = some 255 ∧ 255 < 2 ^ 8 ∧ readLiteral (trimGaps "0x100".toList) = some 256 ∧ 2 ^ 8 ≤ 256 := by
  decide

theorem witness_EncAndDecFrame :
    ∃ s s' t t', exec (.enc 0 keys) s = .next t ∧ exec (.enc 0 keys) s' = .next t' ∧ s ≠ s' :=
  ⟨State.reset, small [encRequest] [] [], _, _, rfl, rfl, by decide⟩

theorem witness_EqualRequestsGetEqualResponses :
    ∃ s s' t t', LogCorrect s ∧ LogCorrect s' ∧ runSteps 1 s = .next t ∧ runSteps 2 s' = .next t' ∧
      (∃ e ∈ t.rspLog, ∃ e' ∈ t'.rspLog, e.1 = e'.1) ∧ s ≠ s' := by
  refine ⟨small [encRequest] [] [], small [decRequest, encRequest] [] [], _, _, ?_, ?_, rfl, rfl, ?_, by decide⟩
  · simp [LogCorrect, small]
  · simp [LogCorrect, small]
  · exact ⟨(encRequest, requestResult encRequest), List.mem_cons_self, (encRequest, requestResult encRequest),
      List.mem_cons_of_mem _ List.mem_cons_self, rfl⟩

theorem witness_StepRunsDecodedRequest :
    (small [encRequest] [] [.complete]).pending = encRequest :: [] ∧ (small [encRequest] [] [.complete]).turns = .complete :: [] ∧
      (small [decRequest] [] []).pending = decRequest :: [] ∧ (small [decRequest] [] []).turns = [] ∧
        decodeTableWord 264 0x00000000C0000000A00000008000000060000000400000002C108D2CE00389255 =
          some (.dec 0x60846967001C492A keys) := by
  decide

/-- A state whose PENDING is exactly full. -/
def full : State := small (List.replicate Config.maxInflight encRequest) [driveRequest decRequest] [.issue]

theorem full_length : full.pending.length = Config.maxInflight := by simp [full, small]

theorem witness_IssueOutcomes :
    Config.maxInflight ≤ full.pending.length ∧ State.reset.pending.length < Config.maxInflight ∧ undrivenK5.wellFormed = false ∧
      (∃ r, driveRequest encRequest = driveRequest r) ∧ (driveRequest encRequest).wellFormed = true ∧
        full.pending.length = Config.maxInflight ∧ (∃ t, completeOldest full = .next t) ∧ ∃ t, t = resetCore full := by
  refine ⟨full_length ▸ Nat.le_refl _, ?_, by decide, ⟨_, rfl⟩, by decide, full_length, ?_, _, rfl⟩
  · exact Config.maxInflight_pos
  · obtain ⟨t, h, _⟩ := takeTurn_next Config.maxInflight .complete full
    exact ⟨t, h⟩

theorem witness_OperandNoValueNamesTheFields :
    State.reset.pending.length < Config.maxInflight ∧ undrivenK5.hasValue .k5 = false ∧ undrivenK5.hasValue .op = true := by
  exact ⟨Config.maxInflight_pos, by decide, by decide⟩

theorem witness_CompleteDeliversOldest : (small [encRequest, decRequest] [] []).pending = encRequest :: [decRequest] := by decide

theorem witness_HostReadOutcomes :
    ({ State.reset with blkOut := some 0 } : State).blkOut = some 0 ∧ State.reset.blkOut = none := by
  decide

theorem witness_TurnsAroundTheOperations :
    (full.turns = .issue :: [] ∧ full.requests = driveRequest decRequest :: [] ∧
        issueRequest Config.maxInflight (driveRequest decRequest) full = none) ∧
      (∃ t, issueRequest Config.maxInflight undrivenK5 (small [] [undrivenK5] [.issue]) = some t) ∧
        (small [] [] [.issue]).requests = [] ∧ (small [] [] [.complete]).pending = [] ∧ (small [] [] [.read]).turns = .read :: [] ∧
          (small [] [] [.reset]).turns = .reset :: [] := by
  refine ⟨⟨rfl, rfl, ?_⟩, ⟨_, if_pos Config.maxInflight_pos⟩, rfl, rfl, rfl, rfl⟩
  simp [issueRequest, full_length]

theorem witness_OnlyCompleteGivesOutput :
    ∃ t, (small [encRequest] [] [.reset, .read]).blkOut = none ∧
      (∀ tn ∈ (small [encRequest] [] [.reset, .read]).turns.take 1, tn ≠ Turn.complete) ∧
        runSteps 1 (small [encRequest] [] [.reset, .read]) = .next t ∧ t.turns = .read :: [] :=
  ⟨_, rfl, by decide, rfl, rfl⟩

theorem witness_ReadyAfterReset :
    (small [decRequest] [driveRequest encRequest] [.reset, .issue]).turns = .reset :: .issue :: [] ∧
      (small [decRequest] [driveRequest encRequest] [.reset, .issue]).requests = driveRequest encRequest :: [] := by
  decide

theorem witness_ResetAndCompleteInEitherOrder : (small [encRequest] [] []).pending = encRequest :: [] := by decide

theorem witness_FaultRecordsAreKept :
    (∃ t, step (small [] [] [.read]) = .next t) ∧ ({ State.reset with faults := [.readBeforeResult] } : State).faults ≠ [] :=
  ⟨⟨_, rfl⟩, by decide⟩

theorem witness_OperandsSampledAtIssue : State.reset.pending.length < Config.maxInflight :=
  Config.maxInflight_pos

/-- A state with a response delivered and read, a fault recorded and a request pending, that meets the invariant. -/
def busy : State :=
  { pending := [decRequest], blkOut := some (requestResult encRequest), rspLog := [(encRequest, requestResult encRequest)],
    faults := [.operandNoValue [.op] none], readLog := [requestResult encRequest], requests := [driveRequest encRequest],
    turns := [.complete, .issue, .read] }

theorem witness_StepKeepsInvariant : Inv busy ∧ ∃ t, step busy = .next t := by
  refine ⟨⟨?_, ?_, ?_, ?_, ?_⟩, _, rfl⟩
  · exact Config.maxInflight_pos
  · simp [LogCorrect, busy]
  · simp [OutputIsLastResponse, busy]
  · simp [ReadsDelivered, busy]
  · simp [FaultsNamed, busy, recordNamed]

/-- The plan holds a reset after the three steps of the run. -/
theorem witness_ResponsesInIssueOrder :
    ∃ t, (small [] [driveRequest encRequest, undrivenK5] [.issue, .read, .complete, .reset]).pending = [] ∧
      (∀ tn ∈ (small [] [driveRequest encRequest, undrivenK5] [.issue, .read, .complete, .reset]).turns.take 3, tn ≠ Turn.reset) ∧
        runSteps 3 (small [] [driveRequest encRequest, undrivenK5] [.issue, .read, .complete, .reset]) = .next t := by
  refine ⟨_, rfl, by decide, rfl⟩

/-- One Complete before the reset: it answers all of one pending request, and leaves the second of two for the reset to remove. -/
theorem witness_EveryPendingRequestCompletes :
    (∃ t, runSteps 1 (small [encRequest] [] [.complete, .reset]) = .next t ∧ t.rspLog = [answered encRequest]) ∧
      ∃ t, runSteps 1 (small [encRequest, decRequest] [] [.complete, .reset]) = .next t ∧ t.turns = .reset :: [] ∧
        t.rspLog = [answered encRequest] ∧ t.pending = [decRequest] :=
  ⟨⟨_, rfl, rfl⟩, _, rfl, rfl, rfl, rfl⟩

end Sys2Proof.Tests
end

section
/-! PROOFS. The state of the CORE (10_state.md R18 to R24): the log along a run, the outcomes of an Issue, of a Complete and of a host
read. -/

namespace Sys2Proof.Machine

/-! ### The response log -/

@[simp] theorem presentRequest_rspLog (p : PortRequest) (s : State) : (presentRequest p s).rspLog = s.rspLog := by
  rcases presentRequest_cases p s with ⟨r, -, h⟩ | ⟨-, h⟩ <;> simp [h]

@[simp] theorem readBlkOut_rspLog (s : State) : (readBlkOut s).rspLog = s.rspLog := by
  rcases readBlkOut_cases s with ⟨v, -, h⟩ | ⟨-, h⟩ <;> simp [h]

/-- Only a Complete writes RSP_LOG, and what it appends is the oldest pending request with its Result (10_state.md R21). -/
theorem Happens.rspLog_cases {cap : Nat} {s t : State} {tn : Turn} (h : Happens cap s tn t) :
    t.rspLog = s.rspLog ∨ ∃ r rest, s.pending = r :: rest ∧ t.rspLog = s.rspLog ++ [answered r] := by
  cases h with
  | noIssue => exact .inl rfl
  | issue p rest hr hc => exact .inl (presentRequest_rspLog p _)
  | noComplete hp => exact .inl rfl
  | complete r rest hp => exact .inr ⟨r, rest, hp, rfl⟩
  | read => exact .inl (readBlkOut_rspLog s)
  | reset => exact .inl rfl

/-- A step leaves RSP_LOG alone, or appends the oldest pending request with its Result. -/
theorem step_rspLog_cases {s t : State} (h : step s = .next t) :
    t.rspLog = s.rspLog ∨ ∃ r rest, s.pending = r :: rest ∧ t.rspLog = s.rspLog ++ [answered r] := by
  rcases stepWith_cases h with ⟨tn, ts, -, hh⟩ | ⟨tn, -, -, hh⟩ | ⟨-, -, rfl⟩
  · exact hh.rspLog_cases
  · exact hh.rspLog_cases
  · exact .inl rfl

theorem step_keeps_logCorrect {s t : State} (hs : LogCorrect s) (h : step s = .next t) : LogCorrect t := by
  rcases step_rspLog_cases h with hl | ⟨r, rest, -, hl⟩
  · simpa [LogCorrect, hl] using hs
  · intro e he
    rw [hl, List.mem_append, List.mem_singleton] at he
    rcases he with he | rfl
    · exact hs e he
    · rfl

/-! ### Runs -/

/-- A run of `n + 1` steps that answers a state is a step followed by a run of `n`. -/
theorem runSteps_succ {n : Nat} {s t : State} (h : runSteps (n + 1) s = .next t) :
    ∃ u, step s = .next u ∧ runSteps n u = .next t := by
  unfold runSteps at h
  split at h
  · exact ⟨_, ‹_›, h⟩
  · cases h
  · cases h

/-- What every step keeps, every run keeps. -/
theorem runSteps_keeps {P : State → Prop} (hP : ∀ {s t : State}, P s → step s = .next t → P t) (n : Nat) :
    ∀ {s t : State}, P s → runSteps n s = .next t → P t := by
  induction n with
  | zero =>
    intro s t hs h
    cases h
    exact hs
  | succ n ih =>
    intro s t hs h
    obtain ⟨u, hu, hrun⟩ := runSteps_succ h
    exact ih (hP hs hu) hrun

/-- Settles O31: every run keeps the log correct, so each response is Result of its request, a function of the request alone
(10_state.md R22, R23). -/
theorem equalRequestsGetEqualResponses : Obligations.EqualRequestsGetEqualResponses := by
  intro n m s s' t t' hs hs' hrun hrun' e he e' he' heq
  have ht : LogCorrect t := runSteps_keeps step_keeps_logCorrect n hs hrun
  have ht' : LogCorrect t' := runSteps_keeps step_keeps_logCorrect m hs' hrun'
  calc e.2 = requestResult e.1 := ht e he
    _ = requestResult e'.1 := congrArg requestResult heq
    _ = e'.2 := (ht' e' he').symm

/-! ### The result of a request -/

@[simp] theorem resultOf_enc (blk : Block) (k : SubkeySet) : resultOf (.enc blk k) = encrypt blk k := rfl

@[simp] theorem resultOf_dec (blk : Block) (k : SubkeySet) : resultOf (.dec blk k) = decrypt blk k := rfl

/-- Settles O22: OP decodes to the operation (30_encoding.md R41), and Result is the result of the decoded instruction. -/
theorem opSelectsOperation : Obligations.OpSelectsOperation := by
  intro blk k
  refine ⟨decodeRequest_op_zero blk k, ?_, decodeRequest_op_one blk k, ?_⟩
  · rw [requestResult, decodeRequest_op_zero, resultOf_enc]
  · rw [requestResult, decodeRequest_op_one, resultOf_dec]

/-! ### Issue -/

/-- The host is held exactly when PENDING is full (10_state.md R20). -/
theorem issueRequest_eq_none_iff {cap : Nat} {p : PortRequest} {s : State} :
    issueRequest cap p s = none ↔ cap ≤ s.pending.length := by
  simp [issueRequest]

theorem issueRequest_of_lt {cap : Nat} {s : State} (p : PortRequest) (h : s.pending.length < cap) :
    issueRequest cap p s = some (presentRequest p s) := if_pos h

theorem sampleRequest_eq_none_iff {p : PortRequest} : sampleRequest p = none ↔ p.wellFormed = false := by
  rw [← sampleRequest_isSome, Option.isSome_eq_false_iff, Option.isNone_iff_eq_none]

/-- A request with a field that has no value raises OperandNoValue (60_exceptions.md R103). -/
theorem presentRequest_of_illFormed {p : PortRequest} (h : p.wellFormed = false) (s : State) :
    presentRequest p s = raiseFault (.operandNoValue (undrivenFields p) p.op) s := by
  simp [presentRequest, sampleRequest_eq_none_iff.2 h]

theorem exists_driveRequest_of_wellFormed {p : PortRequest} (h : p.wellFormed = true) : ∃ r, p = driveRequest r := by
  obtain ⟨r, hr⟩ := Option.isSome_iff_exists.1 ((sampleRequest_isSome p).trans h)
  exact ⟨r, eq_driveRequest_of_sampleRequest hr⟩

/-- A Complete or a reset takes a request off a full PENDING, so it leaves room for one. -/
theorem pending_lt_of_complete_or_reset {s t : State} (hfull : s.pending.length = Config.maxInflight)
    (h : completeOldest s = .next t ∨ t = resetCore s) : t.pending.length < Config.maxInflight := by
  rcases h with h | rfl
  · cases hp : s.pending with
    | nil => exact absurd hfull (by simpa [hp] using Config.maxInflight_pos.ne)
    | cons r rest =>
      rw [completeOldest_cons hp, Host.Outcome.next.injEq] at h
      rw [hp, List.length_cons] at hfull
      rw [← h, deliver_pending]
      exact hfull ▸ Nat.lt_succ_self rest.length
  · exact Config.maxInflight_pos

/-- Settles O33: Issue is held exactly on a full PENDING, and otherwise presents the request, which records a fault or is accepted
(10_state.md R20). -/
theorem issueOutcomes : Obligations.IssueOutcomes := by
  refine ⟨fun s p => ⟨issueRequest_eq_none_iff.2, ?_, ?_, exists_driveRequest_of_wellFormed⟩, ?_⟩
  · intro hroom hill
    rw [issueRequest_of_lt p hroom, presentRequest_of_illFormed hill, raiseFault]
  · rintro hroom r rfl
    rw [issueRequest_of_lt _ hroom, presentRequest_driveRequest, acceptRequest]
  · intro s t p hfull hlift hheld
    exact absurd (issueRequest_eq_none_iff.1 hheld) (pending_lt_of_complete_or_reset hfull hlift).not_ge

/-! ### Complete and host read -/

/-- Settles O35: Complete delivers the head of PENDING, and `deliver` writes BLK_OUT and RSP_LOG alone (10_state.md R21). -/
theorem completeDeliversOldest : Obligations.CompleteDeliversOldest := by
  intro s r rest hp
  rw [completeOldest_cons hp, deliver]

theorem hostRead_of_some {s : State} {v : Block} (h : s.blkOut = some v) : hostRead s = (some v, s) := by
  simp [hostRead, h]

theorem hostRead_of_none {s : State} (h : s.blkOut = none) : hostRead s = (none, raiseFault .readBeforeResult s) := by
  simp [hostRead, h]

/-- Settles O36: a host read looks at BLK_OUT alone, and either returns its value or records ReadBeforeResult (10_state.md R24,
60_exceptions.md R104). -/
theorem hostReadOutcomes : Obligations.HostReadOutcomes := by
  intro s
  refine ⟨fun v hv => hostRead_of_some hv, fun hnone => ?_⟩
  rw [hostRead_of_none hnone, raiseFault]

end Sys2Proof.Machine
end

section
/-! PROOFS. The frame of the two instructions (20_memory.md R35). -/

namespace Sys2Proof.Machine

/-- The one state that executing an instruction can answer: its result delivered as the response to its request. -/
theorem eq_deliver_of_exec {i : Instr} {s t : State} (h : exec i s = .next t) : t = deliver (encodeRequest i) (resultOf i) s := by
  rw [exec_eq, Host.Outcome.next.injEq] at h
  exact h.symm

/-- The response depends on the instruction alone, not on the state it runs in. -/
theorem exec_blkOut {i : Instr} {s t : State} (h : exec i s = .next t) : t.blkOut = some (resultOf i) := by
  rw [eq_deliver_of_exec h, deliver_blkOut]

/-- Settles O29: `exec` only delivers, and `deliver` writes BLK_OUT and RSP_LOG alone; the value it writes is the result of the
instruction, whatever the state (20_memory.md R35). -/
theorem encAndDecFrame : Obligations.EncAndDecFrame := by
  refine ⟨fun i s t h => ?_, fun i s s' t t' h h' => (exec_blkOut h).trans (exec_blkOut h').symm⟩
  obtain rfl := eq_deliver_of_exec h
  exact ⟨deliver_pending .., deliver_faults .., deliver_readLog .., deliver_requests .., deliver_turns .., resultOf i,
    deliver_blkOut .., deliver_rspLog ..⟩

end Sys2Proof.Machine
end

section
/-! PROOFS. The layout of the request word (30_encoding.md R42) and the operands that the datapath forms of the subkeys (R44). -/

namespace Sys2Proof

/-- Two bit vectors side by side are, as a number, the sum of the low one and of the high one above its width. -/
theorem toNat_append_eq_add {m n : Nat} (hi : BitVec m) (lo : BitVec n) : (hi ++ lo).toNat = lo.toNat + 2 ^ n * hi.toNat := by
  rw [BitVec.toNat_append, ← Nat.shiftLeft_add_eq_or_of_lt lo.isLt, Nat.shiftLeft_eq, Nat.mul_comm, Nat.add_comm]

/-! ### From a request to its word and back -/

/-- Each field's weight is 2 to the power of its lowest bit's number, which is the width of all that lies below it (R42). -/
theorem wordOfRequest_toNat (r : Request) : (wordOfRequest r).toNat =
    r.op.toNat + 2 ^ 1 * r.blk.toNat + 2 ^ 65 * r.k.k0.toNat + 2 ^ 97 * r.k.k1.toNat + 2 ^ 129 * r.k.k2.toNat +
      2 ^ 161 * r.k.k3.toNat + 2 ^ 193 * r.k.k4.toNat + 2 ^ 225 * r.k.k5.toNat := by
  rw [wordOfRequest]
  simp only [toNat_append_eq_add]
  ring

@[simp] theorem wordOp_wordOfRequest (r : Request) : wordOp (wordOfRequest r) = r.op :=
  BitVec.extractLsb'_append_eq_right

@[simp] theorem wordBlk_wordOfRequest (r : Request) : wordBlk (wordOfRequest r) = r.blk := by
  rw [wordBlk, wordOfRequest, BitVec.extractLsb'_append_eq_of_le (by decide)]
  exact BitVec.extractLsb'_append_eq_right

/-- K<i> is found by dropping all that lies below bit 65 + 32i; it is the low end of what is left, and K5 is all of it. -/
theorem wordKeys_wordOfRequest (r : Request) :
    wordKey 0 (wordOfRequest r) = r.k.k0 ∧ wordKey 1 (wordOfRequest r) = r.k.k1 ∧ wordKey 2 (wordOfRequest r) = r.k.k2 ∧
      wordKey 3 (wordOfRequest r) = r.k.k3 ∧ wordKey 4 (wordOfRequest r) = r.k.k4 ∧ wordKey 5 (wordOfRequest r) = r.k.k5 := by
  refine ⟨?_, ?_, ?_, ?_, ?_, ?_⟩ <;> rw [wordKey, wordOfRequest] <;>
    repeat rw [BitVec.extractLsb'_append_eq_of_le (by decide)]
  on_goal 6 => exact BitVec.extractLsb'_eq_self
  all_goals exact BitVec.extractLsb'_append_eq_right

@[simp] theorem requestOfWord_wordOfRequest (r : Request) : requestOfWord (wordOfRequest r) = r := by
  simp [requestOfWord, wordKeys_wordOfRequest]

/-- The fields are contiguous, each beginning where the one below it ends, and together they are bits 256 to 0 (R42). -/
@[simp] theorem wordOfRequest_requestOfWord (w : ReqWord) : wordOfRequest (requestOfWord w) = w := by
  simp only [wordOfRequest, requestOfWord, wordOp, wordBlk, wordKey]
  repeat rw [BitVec.extractLsb'_append_extractLsb'_eq_extractLsb' (by decide)]
  exact BitVec.extractLsb'_eq_self

/-- Settles O20: the layout as a number, and its two inverse directions (30_encoding.md R42). -/
theorem requestWordLayout : Obligations.RequestWordLayout :=
  ⟨wordOfRequest_toNat, requestOfWord_wordOfRequest, wordOfRequest_requestOfWord⟩

end Sys2Proof

namespace Sys2Proof.Machine

/-! ### The operands of the datapath -/

/-- Pack in exact arithmetic (41_datapath_functions.md R60). -/
theorem pack_toNat (a b : Half) : (pack a b).toNat = a.toNat * 2 ^ 32 + b.toNat := by
  rw [pack, toNat_append_eq_add, Nat.mul_comm, Nat.add_comm]

/-- Settles O11: the whitening key packs k4 above k5, and the round keys are k0 to k3 in ENC's order and in DEC's (30_encoding.md
R44). -/
theorem operandAssembly : Obligations.OperandAssembly :=
  fun k => ⟨pack_toNat k.k4 k.k5, rfl, rfl⟩

end Sys2Proof.Machine
end

section
/-! PROOFS. The datapath functions (41_datapath_functions.md R60 to R69): the halves of a block, the byte mixers on bits 5:0 of their
operands, F and ROUND. -/

namespace Sys2Proof.Machine

/-! ### The halves of a block -/

/-- HighHalf in exact arithmetic (R61). -/
theorem highHalf_toNat (v : Block) : (highHalf v).toNat = v.toNat / 2 ^ 32 := by
  rw [highHalf, BitVec.extractLsb'_toNat, Nat.shiftRight_eq_div_pow]
  exact Nat.mod_eq_of_lt (Nat.div_lt_of_lt_mul v.isLt)

/-- LowHalf in exact arithmetic (R62). -/
theorem lowHalf_toNat (v : Block) : (lowHalf v).toNat = v.toNat % 2 ^ 32 := by
  rw [lowHalf, BitVec.extractLsb'_toNat, Nat.shiftRight_zero]

/-- Settles O1: the three functions in exact arithmetic (R60, R61, R62), and each rule's worked example. -/
theorem packPlacesHalves : Obligations.PackPlacesHalves := by
  refine ⟨pack_toNat, fun v => ⟨highHalf_toNat v, lowHalf_toNat v⟩, ?_, ?_, ?_⟩ <;> decide

/-! ### The byte mixers -/

/-- G0 in exact arithmetic (R64). -/
theorem g0_toNat (a b : Byte) : (g0 a b).toNat = (a.toNat + b.toNat) % 256 * 4 % 256 := by
  rw [g0, shl8_two_toNat, BitVec.toNat_add]

/-- G1 in exact arithmetic (R65). -/
theorem g1_toNat (a b : Byte) : (g1 a b).toNat = (a.toNat + b.toNat + 1) % 256 * 4 % 256 := by
  rw [g1, shl8_two_toNat, BitVec.toNat_add, BitVec.toNat_add]
  exact congrArg (· * 4 % 256) (Nat.mod_add_mod _ _ _)

/-- The shift by 2 keeps bits 5:0 and puts two zero bits below them. -/
theorem shl8_two_eq_append (x : Byte) : shl8 x 2 = x.setWidth 6 ++ 0#2 := by
  apply BitVec.eq_of_toNat_eq
  rw [shl8_two_toNat, toNat_append_eq_add, BitVec.toNat_setWidth, BitVec.toNat_zero]
  omega

/-- G0 is a sum of bits 5:0 of its operands, with two zero bits below (R66 (c), (d)). -/
theorem g0_eq_append (a b : Byte) : g0 a b = (a.setWidth 6 + b.setWidth 6) ++ 0#2 := by
  rw [g0, shl8_two_eq_append, BitVec.setWidth_add _ _ (by decide)]

/-- G1 is a sum of bits 5:0 of its operands and the carry-in, with two zero bits below (R66 (c), (d)). -/
theorem g1_eq_append (a b : Byte) : g1 a b = (a.setWidth 6 + b.setWidth 6 + 1) ++ 0#2 := by
  rw [g1, shl8_two_eq_append, BitVec.setWidth_add _ _ (by decide), BitVec.setWidth_add _ _ (by decide)]
  rfl

/-- A value with two zero bits at the bottom has nothing within the mask 0x03. -/
theorem append_zero_and_three (x : BitVec 6) : (x ++ 0#2) &&& 0x03 = 0 := by
  have hmask : (0x03 : Byte) = 0#6 ++ 3#2 := by decide
  rw [hmask, BitVec.and_append, BitVec.and_zero, BitVec.zero_and]
  rfl

theorem g0_and_three (a b : Byte) : g0 a b &&& 0x03 = 0 := by
  rw [g0_eq_append, append_zero_and_three]

theorem g1_and_three (a b : Byte) : g1 a b &&& 0x03 = 0 := by
  rw [g1_eq_append, append_zero_and_three]

/-- Settles O3: the formula and the zero low bits for all bytes (R64), and the rule's three values. -/
theorem g0AddsWrapsThenShifts : Obligations.G0AddsWrapsThenShifts := by
  refine ⟨fun a b => ⟨g0_toNat a b, g0_and_three a b⟩, ?_, ?_, ?_⟩ <;> decide

/-- Settles O4: the formula and the zero low bits for all bytes (R65), and the rule's four values. -/
theorem g1AddsCarryWrapsThenShifts : Obligations.G1AddsCarryWrapsThenShifts := by
  refine ⟨fun a b => ⟨g1_toNat a b, g1_and_three a b⟩, ?_, ?_, ?_, ?_⟩ <;> decide

/-! ### F, byte by byte -/

/-- Byte j of a half as a number: the half divided by the weight of the byte's lowest bit, cut to 8 bits (20_memory.md R31). -/
theorem byteOf_eq_ofNat (j : Nat) (v : Half) : byteOf j v = BitVec.ofNat 8 (v.toNat / 2 ^ (24 - 8 * j)) := by
  rw [byteOf, BitVec.extractLsb', Nat.shiftRight_eq_div_pow]

/-- The bytes of four bytes side by side are those bytes, the first one on top (20_memory.md R31). -/
theorem bytesOf_append (y0 y1 y2 y3 : Byte) :
    byteOf 0 (y0 ++ y1 ++ y2 ++ y3) = y0 ∧ byteOf 1 (y0 ++ y1 ++ y2 ++ y3) = y1 ∧ byteOf 2 (y0 ++ y1 ++ y2 ++ y3) = y2 ∧
      byteOf 3 (y0 ++ y1 ++ y2 ++ y3) = y3 := by
  refine ⟨?_, ?_, ?_, ?_⟩ <;> rw [byteOf] <;> repeat rw [BitVec.extractLsb'_append_eq_of_le (by decide)]
  on_goal 1 => exact BitVec.extractLsb'_eq_self
  all_goals exact BitVec.extractLsb'_append_eq_right

/-- F of the half with all bits 0 (R67). -/
theorem roundF_zero : roundF 0 = 0x10041044 := by decide

/-- Settles O6: F is four bytes side by side, so its bytes are those four (R67); the operand's bytes as numbers, and the rule's two
values. -/
theorem roundFunctionBytes : Obligations.RoundFunctionBytes :=
  ⟨fun _ => bytesOf_append _ _ _ _,
    fun v => ⟨byteOf_eq_ofNat 0 v, byteOf_eq_ofNat 1 v, byteOf_eq_ofNat 2 v, by simpa using byteOf_eq_ofNat 3 v⟩,
    roundF_zero, by decide⟩

/-! ### F ignores bits 7:6 of every byte, and so does ROUND of its key -/

/-- F depends on bits 5:0 of the four bytes of its operand alone: bits 5:0 of an XOR or AND are those of its operands, and the mixers
read no others (R68 (b)). -/
theorem roundF_congr {v w : Half} (h0 : (byteOf 0 v).setWidth 6 = (byteOf 0 w).setWidth 6)
    (h1 : (byteOf 1 v).setWidth 6 = (byteOf 1 w).setWidth 6) (h2 : (byteOf 2 v).setWidth 6 = (byteOf 2 w).setWidth 6)
    (h3 : (byteOf 3 v).setWidth 6 = (byteOf 3 w).setWidth 6) : roundF v = roundF w := by
  simp only [roundF, g0_eq_append, g1_eq_append, BitVec.setWidth_xor, BitVec.setWidth_and, h0, h1, h2, h3]

/-- Each byte of the mask 0x3F3F3F3F keeps bits 5:0. -/
theorem setWidth_byteOf_mask {j : Nat} (hj : j < 4) (v : Half) :
    (byteOf j (v &&& 0x3F3F3F3F)).setWidth 6 = (byteOf j v).setWidth 6 := by
  have hmask : (byteOf j 0x3F3F3F3F).setWidth 6 = BitVec.allOnes 6 := by
    interval_cases j <;> decide
  rw [byteOf, BitVec.extractLsb'_and, BitVec.setWidth_and, ← byteOf, ← byteOf, hmask, BitVec.and_allOnes]

/-- F ignores bits 7:6 of every byte of its operand (R68 (b)). -/
theorem roundF_mask (v : Half) : roundF (v &&& 0x3F3F3F3F) = roundF v := by
  apply roundF_congr <;> exact setWidth_byteOf_mask (by decide) v

/-- A mask goes inside an XOR. -/
theorem xor_and_eq_and_xor_and {n : Nat} (x y m : BitVec n) : (x ^^^ y) &&& m = (x &&& m) ^^^ (y &&& m) := by
  ext i hi
  simp only [BitVec.getElem_and, BitVec.getElem_xor, Bool.and_xor_distrib_right]

/-- A change of F's operand outside the mask 0x3F3F3F3F does not change F. -/
theorem roundF_xor_of_and_mask_eq_zero {m : Half} (hm : m &&& 0x3F3F3F3F = 0) (v : Half) : roundF (v ^^^ m) = roundF v := by
  have hsame : (v ^^^ m) &&& 0x3F3F3F3F = v &&& 0x3F3F3F3F := by
    rw [xor_and_eq_and_xor_and, hm]
    exact BitVec.xor_zero
  rw [← roundF_mask, hsame, roundF_mask]

/-- ROUND as R69 writes it. -/
theorem feistelRound_eq (l r key : Half) : feistelRound l r key = (l ^^^ roundF (r ^^^ key), r) := rfl

/-- Settles O8: ROUND by its formula (R69); with right = key it uses F of 0; the change m goes into F's operand, where F ignores it. -/
theorem roundUpdatesOneHalf : Obligations.RoundUpdatesOneHalf := by
  refine ⟨feistelRound_eq, fun l r key h => ?_, fun l r key m hm => ?_, by decide⟩
  · rw [feistelRound_eq, h, roundF_zero]
  · rw [feistelRound_eq, feistelRound_eq, ← BitVec.xor_assoc, roundF_xor_of_and_mask_eq_zero hm]

end Sys2Proof.Machine
end

section
/-! PROOFS. The block operations (42_block_operations.md R80 to R85): the Feistel schedule, ENC and DEC as one keyed map of blocks, and
that reversing the round keys inverts it. -/

namespace Sys2Proof.Machine

/-! ### The steps on a pair of halves -/

/-- The cross-mix (R81). -/
theorem xmix_mk (l r : Half) : xmix ⟨l, r⟩ = ⟨l, r ^^^ l⟩ := rfl

/-- A round of stages 1 to 3 (R82). -/
theorem swappedRound_mk (l r key : Half) : swappedRound ⟨l, r⟩ key = ⟨r, l ^^^ roundF (r ^^^ key)⟩ := rfl

/-- The round of stage 4 (R82). -/
theorem finalRound_mk (l r key : Half) : finalRound ⟨l, r⟩ key = ⟨l ^^^ roundF (r ^^^ key), r⟩ := rfl

/-- Settles O10: three swapped rounds and the final one, each by its map of the halves (R82). -/
theorem feistelSchedule : Obligations.FeistelSchedule := by
  intro l0 r0 rk1 rk2 rk3 rk4
  simp only [feistel4, swappedRound_mk, finalRound_mk]

/-! ### The map that ENC and DEC share -/

/-- What ENC and DEC do between the whitenings: split, cross-mix, four rounds, cross-mix, pack (R83, R84). -/
def cipherBlock (v : Block) (rk : RoundKeys) : Block :=
  packHalves (xmix (feistel4 (xmix (splitBlock v)) rk))

/-- ENC whitens before the shared map (R83). -/
theorem encrypt_eq_cipherBlock (x : Block) (k : SubkeySet) :
    encrypt x k = cipherBlock (x ^^^ whiteningKey k) (roundKeysEnc k) := rfl

/-- DEC whitens after the shared map (R84). -/
theorem decrypt_eq_cipherBlock (c : Block) (k : SubkeySet) :
    decrypt c k = cipherBlock c (roundKeysDec k) ^^^ whiteningKey k := rfl

/-- The shared map written out step by step, as R83 and R84 do. -/
theorem cipherBlock_eq_pack (v : Block) (rk : RoundKeys) :
    let l0 := highHalf v
    let r0 := lowHalf v ^^^ l0
    let r1 := l0 ^^^ roundF (r0 ^^^ rk.rk1)
    let r2 := r0 ^^^ roundF (r1 ^^^ rk.rk2)
    let r3 := r1 ^^^ roundF (r2 ^^^ rk.rk3)
    let l4 := r2 ^^^ roundF (r3 ^^^ rk.rk4)
    cipherBlock v rk = pack l4 (r3 ^^^ l4) := by
  intro l0 r0 r1 r2 r3 l4
  have hrounds : feistel4 (xmix (splitBlock v)) rk = ⟨l4, r3⟩ := feistelSchedule l0 r0 rk.rk1 rk.rk2 rk.rk3 rk.rk4
  rw [cipherBlock, hrounds, xmix_mk, packHalves]

/-! ### Reversing the round keys inverts the map -/

/-- The round keys in the opposite order. -/
def RoundKeys.reversed (rk : RoundKeys) : RoundKeys := ⟨rk.rk4, rk.rk3, rk.rk2, rk.rk1⟩

/-- DEC uses ENC's round keys in the opposite order (30_encoding.md R44). -/
theorem roundKeysDec_eq_reversed (k : SubkeySet) : roundKeysDec k = (roundKeysEnc k).reversed := rfl

/-- Exchange the left and the right half. -/
def swapHalves (h : Halves) : Halves := ⟨h.right, h.left⟩

@[simp] theorem swapHalves_swapHalves (h : Halves) : swapHalves (swapHalves h) = h := rfl

/-- A round of stages 1 to 3 is the unswapped round with a swap after it (R82). -/
theorem swappedRound_eq_swapHalves (h : Halves) (key : Half) : swappedRound h key = swapHalves (finalRound h key) := rfl

/-- The cross-mix is its own inverse (R81). -/
@[simp] theorem xmix_xmix (h : Halves) : xmix (xmix h) = h := by
  obtain ⟨l, r⟩ := h
  rw [xmix_mk, xmix_mk, xor_cancel_right]

/-- The unswapped round is its own inverse: it keeps the right half, on which the value XORed into the left half depends. -/
@[simp] theorem finalRound_finalRound (h : Halves) (key : Half) : finalRound (finalRound h key) key = h := by
  obtain ⟨l, r⟩ := h
  rw [finalRound_mk, finalRound_mk, xor_cancel_right]

/-- Four unswapped rounds with a swap between each two, undone from the last one: every factor is its own inverse. -/
@[simp] theorem feistel4_reversed (h : Halves) (rk : RoundKeys) : feistel4 (feistel4 h rk) rk.reversed = h := by
  simp only [feistel4, RoundKeys.reversed, swappedRound_eq_swapHalves, finalRound_finalRound, swapHalves_swapHalves]

/-- HighHalf takes Pack's first argument back (41_datapath_functions.md R63). -/
@[simp] theorem highHalf_pack (a b : Half) : highHalf (pack a b) = a := by
  rw [highHalf, pack, BitVec.extractLsb'_append_eq_left]

/-- LowHalf takes Pack's second argument back (41_datapath_functions.md R63). -/
@[simp] theorem lowHalf_pack (a b : Half) : lowHalf (pack a b) = b :=
  BitVec.extractLsb'_append_eq_right

/-- Pack puts the halves of a block together again (41_datapath_functions.md R63). -/
@[simp] theorem pack_highHalf_lowHalf (v : Block) : pack (highHalf v) (lowHalf v) = v := by
  rw [pack, highHalf, lowHalf, BitVec.extractLsb'_append_extractLsb'_eq_extractLsb' (by decide)]
  exact BitVec.extractLsb'_eq_self

@[simp] theorem splitBlock_packHalves (h : Halves) : splitBlock (packHalves h) = h := by
  rw [packHalves, splitBlock, highHalf_pack, lowHalf_pack]

@[simp] theorem packHalves_splitBlock (v : Block) : packHalves (splitBlock v) = v :=
  pack_highHalf_lowHalf v

/-- The shared map with the round keys reversed undoes itself: each of its steps meets its own inverse. -/
@[simp] theorem cipherBlock_reversed (v : Block) (rk : RoundKeys) : cipherBlock (cipherBlock v rk) rk.reversed = v := by
  simp only [cipherBlock, splitBlock_packHalves, xmix_xmix, feistel4_reversed, packHalves_splitBlock]

/-- Settles O13: DEC's round keys are ENC's reversed, so its shared map undoes ENC's, and its whitening comes last as ENC's comes first
(R85). -/
theorem decryptUndoesEncrypt : Obligations.DecryptUndoesEncrypt := by
  intro x k
  rw [decrypt_eq_cipherBlock, encrypt_eq_cipherBlock, roundKeysDec_eq_reversed, cipherBlock_reversed, xor_cancel_right]

/-! ### What ENC and DEC deliver -/

/-- Settles O27: ENC delivers its result in every state, and the result is the shared map of the whitened block, written out (R83); the
rule's two values. -/
theorem encDeliversCiphertext : Obligations.EncDeliversCiphertext := by
  refine ⟨fun x k s => ?_, by decide, by decide⟩
  rw [exec_eq, resultOf_enc, encrypt_eq_cipherBlock, cipherBlock_eq_pack]
  rfl

/-- Settles O28: DEC delivers its result in every state, and the result is the shared map of the block as given, written out and then
whitened (R84); the rule's value. -/
theorem decDeliversPlaintext : Obligations.DecDeliversPlaintext := by
  refine ⟨fun c k s => ?_, by decide⟩
  rw [exec_eq, resultOf_dec, decrypt_eq_cipherBlock, cipherBlock_eq_pack]
  rfl

end Sys2Proof.Machine
end

section
/-! PROOFS. The fault records (60_exceptions.md R100 to R104): ENC and DEC raise none, an OperandNoValue record names the fields without
a value, and a record is appended alone and stays. -/

namespace Sys2Proof

/-! ### The fields without a value -/

/-- The eight fields, in the order of REQ (30_encoding.md R40). -/
def Field.all : List Field := [.op, .blkIn, .k0, .k1, .k2, .k3, .k4, .k5]

theorem Field.mem_all (f : Field) : f ∈ Field.all := by cases f <;> decide

theorem Field.all_nodup : Field.all.Nodup := by decide

/-- The name of one field without a value, picked from that field alone. -/
theorem missingField_eq_filter {α : Type} (f : Field) (o : Option α) : missingField f o = [f].filter (fun _ => !o.isSome) := by
  cases o <;> rfl

/-- The fields without a value are picked from the eight by `hasValue`, in order. -/
theorem undrivenFields_eq_filter (p : PortRequest) : undrivenFields p = Field.all.filter (fun f => !p.hasValue f) := by
  have hall : Field.all = [.op] ++ [.blkIn] ++ [.k0] ++ [.k1] ++ [.k2] ++ [.k3] ++ [.k4] ++ [.k5] := rfl
  rw [hall]
  simp only [undrivenFields, missingField_eq_filter, List.filter_append]
  rfl

theorem mem_undrivenFields {p : PortRequest} {f : Field} : f ∈ undrivenFields p ↔ p.hasValue f = false := by
  simp [undrivenFields_eq_filter, Field.mem_all]

theorem undrivenFields_nodup (p : PortRequest) : (undrivenFields p).Nodup := by
  rw [undrivenFields_eq_filter]
  exact Field.all_nodup.filter _

theorem wellFormed_eq_false_of_hasValue {p : PortRequest} {f : Field} (h : p.hasValue f = false) : p.wellFormed = false := by
  rw [← Bool.not_eq_true, ← undrivenFields_eq_nil]
  exact List.ne_nil_of_mem (mem_undrivenFields.2 h)

end Sys2Proof

namespace Sys2Proof.Machine

/-- Settles O34: the record is the one `presentRequest` raises on an ill-formed request, and its list is the eight fields filtered by
having no value (60_exceptions.md R102, R103). -/
theorem operandNoValueNamesTheFields : Obligations.OperandNoValueNamesTheFields := by
  rintro s p hroom ⟨f, hf⟩
  refine ⟨undrivenFields p, fun g => mem_undrivenFields, undrivenFields_nodup p, ?_⟩
  rw [issueRequest_of_lt p hroom, presentRequest_of_illFormed (wellFormed_eq_false_of_hasValue hf), raiseFault]

/-! ### A record is appended alone -/

/-- From `s` to `t` FAULTS is left as it is, or gains one record while the rest of the spec's state stays (60_exceptions.md R102). -/
def RecordsAlone (s t : State) : Prop :=
  t.faults = s.faults ∨ ∃ f, t.faults = s.faults ++ [f] ∧ t.pending = s.pending ∧ t.blkOut = s.blkOut ∧ t.rspLog = s.rspLog

theorem recordsAlone_raiseFault (f : Fault) (s : State) : RecordsAlone s (raiseFault f s) := .inr ⟨f, rfl, rfl, rfl, rfl⟩

theorem recordsAlone_presentRequest (p : PortRequest) (s : State) : RecordsAlone s (presentRequest p s) := by
  rcases presentRequest_cases p s with ⟨r, -, h⟩ | ⟨-, h⟩ <;> rw [h]
  · exact .inl (acceptRequest_faults r s)
  · exact recordsAlone_raiseFault _ s

theorem recordsAlone_readBlkOut (s : State) : RecordsAlone s (readBlkOut s) := by
  rcases readBlkOut_cases s with ⟨v, -, h⟩ | ⟨-, h⟩ <;> rw [h]
  · exact .inl rfl
  · exact recordsAlone_raiseFault _ s

/-- Only an Issue and a read can record a fault. -/
theorem Happens.recordsAlone {cap : Nat} {s t : State} {tn : Turn} (h : Happens cap s tn t) : RecordsAlone s t := by
  cases h with
  | noIssue => exact .inl rfl
  | issue p rest hr hc => exact recordsAlone_presentRequest p { s with requests := rest }
  | noComplete hp => exact .inl rfl
  | complete r rest hp => exact .inl rfl
  | read => exact recordsAlone_readBlkOut s
  | reset => exact .inl rfl

theorem step_recordsAlone {s t : State} (h : step s = .next t) : RecordsAlone s t := by
  rcases stepWith_cases h with ⟨tn, ts, -, hh⟩ | ⟨tn, -, -, hh⟩ | ⟨-, -, rfl⟩
  · exact hh.recordsAlone
  · exact hh.recordsAlone
  · exact .inl rfl

/-- Settles O44: each kind of step records alone or not at all, and a successful end has no record (60_exceptions.md R102, R117). -/
theorem faultRecordsAreKept : Obligations.FaultRecordsAreKept :=
  ⟨fun _ _ => step_recordsAlone, fun _ _ => rfl, rfl, fun _ hrecord ⟨_, hnone⟩ => hrecord hnone⟩

/-! ### ENC and DEC record nothing -/

/-- Settles O30: both instructions deliver their result, in every state, and `deliver` leaves FAULTS alone (60_exceptions.md R100). -/
theorem encAndDecAlwaysComplete : Obligations.EncAndDecAlwaysComplete := fun i s =>
  ⟨_, exec_eq i s, deliver_blkOut .., deliver_faults ..⟩

end Sys2Proof.Machine
end

section
/-! PROOFS. Reset (70_reset_and_hazards.md R120), and the sampling of operands at issue (R127): neither a pending request nor its
completion looks at the host's input again. -/

namespace Sys2Proof.Machine

/-- Settles O37: the two fields that a reset writes are all that its definition names (R120). -/
theorem resetClearsPendingAndOutput : Obligations.ResetClearsPendingAndOutput := fun s => by
  rw [resetCore]

/-- With room in PENDING a request driven on every port is accepted, with the values driven (10_state.md R20). -/
theorem issueRequest_driveRequest {cap : Nat} {s : State} (r : Request) (h : s.pending.length < cap) :
    issueRequest cap (driveRequest r) s = some (acceptRequest r s) := by
  rw [issueRequest_of_lt _ h, presentRequest_driveRequest]

/-- Complete does the same whatever the host drives, and leaves that as it is (R127). -/
theorem completeOldest_requests (s : State) (later : List PortRequest) :
    ∃ t, completeOldest s = .next t ∧ completeOldest { s with requests := later } = .next { t with requests := later } := by
  obtain ⟨t, ht, hcomplete⟩ := takeTurn_next Config.maxInflight .complete s
  refine ⟨t, ht, ?_⟩
  cases hcomplete with
  | noComplete hp => exact completeOldest_nil hp
  | complete r rest hp => exact completeOldest_cons hp

/-- Settles O45: the eight fields with a value are a driven request, which is accepted as it is, and Complete takes its request from
PENDING alone (R127). -/
theorem operandsSampledAtIssue : Obligations.OperandsSampledAtIssue :=
  ⟨fun _ op blk k0 k1 k2 k3 k4 k5 hroom => issueRequest_driveRequest ⟨op, blk, ⟨k0, k1, k2, k3, k4, k5⟩⟩ hroom,
    completeOldest_requests⟩

end Sys2Proof.Machine
end

section
/-! PROOFS. The decoder as a whole (30_encoding.md R41, R45, R46): decoding and encoding undo each other, and a number is refused exactly
when it is longer than a request word. -/

namespace Sys2Proof

/-! ### Words of the fixed length -/

@[simp] theorem decodeWord_encode (i : Instr) : decodeWord (encode i) = i := by
  rw [decodeWord, encode, requestOfWord_wordOfRequest, decodeRequest_encodeRequest]

@[simp] theorem encode_decodeWord (w : ReqWord) : encode (decodeWord w) = w := by
  rw [encode, decodeWord, encodeRequest_decodeRequest, wordOfRequest_requestOfWord]

theorem decode_of_lt {w : Nat} (h : w < wordBound) : decode w = .ok (decodeWord (BitVec.ofNat 257 w)) := by
  rw [decode, wordOfNat_of_lt h]

theorem decode_of_ge {w : Nat} (h : wordBound ≤ w) : decode w = .error .longerThanRequestWord := by
  rw [decode, wordOfNat_of_ge h]

/-- Every request word is a number of the fixed length (R46). -/
theorem reqWord_toNat_lt (w : ReqWord) : w.toNat < wordBound := wordBound_eq ▸ w.isLt

theorem decode_toNat (w : ReqWord) : decode w.toNat = .ok (decodeWord w) := by
  rw [decode_of_lt (reqWord_toNat_lt w), BitVec.ofNat_toNat, BitVec.setWidth_eq]

/-- OP is the parity of the word (R42). -/
theorem wordOp_toNat (w : ReqWord) : (wordOp w).toNat = w.toNat % 2 := by
  rw [wordOp, BitVec.extractLsb'_toNat, Nat.shiftRight_zero]

/-- A word is ENC or DEC as its bit 0 is 0 or 1 (R41). -/
theorem decodeWord_cases (w : ReqWord) :
    (w.toNat % 2 = 0 ∧ ∃ blk k, decodeWord w = .enc blk k) ∨ (w.toNat % 2 = 1 ∧ ∃ blk k, decodeWord w = .dec blk k) := by
  rw [← wordOp_toNat, decodeWord, requestOfWord]
  rcases bit_cases (wordOp w) with h | h <;> rw [h]
  · exact .inl ⟨rfl, _, _, decodeRequest_op_zero _ _⟩
  · exact .inr ⟨rfl, _, _, decodeRequest_op_one _ _⟩

/-- Settles O21: a word and its request determine each other, as a request and its instruction do, and bit 0 is OP (R45). -/
theorem everyWordIsOneInstruction : Obligations.EveryWordIsOneInstruction :=
  ⟨decodeWord_encode, encode_decodeWord, decode_toNat, decodeWord_cases⟩

/-! ### Numbers of any length -/

theorem decode_eq_error_iff {w : Nat} : decode w = .error .longerThanRequestWord ↔ wordBound ≤ w := by
  refine ⟨fun h => ?_, decode_of_ge⟩
  by_contra hlt
  rw [decode_of_lt (Nat.not_le.1 hlt)] at h
  cases h

/-- Settles O24: below the bound the number is the word it decodes from, and from the bound on it is refused (R46). -/
theorem longerNumbersRefused : Obligations.LongerNumbersRefused := by
  refine ⟨wordBound_eq, fun w => ⟨decode_eq_error_iff, fun h => ⟨_, decode_of_lt h, ?_⟩⟩⟩
  rw [encode_decodeWord, BitVec.toNat_ofNat]
  exact Nat.mod_eq_of_lt (wordBound_eq ▸ h)

/-- Settles O23: the four numbers are below the bound, and each has its request's fields at their places (R42). -/
theorem writtenWordsDecode : Obligations.WrittenWordsDecode := by
  refine ⟨?_, ?_, ?_, ?_⟩ <;> rw [decode_of_lt (by decide)] <;> decide

end Sys2Proof
end

section
/-! PROOFS. The invariant (10_state.md section 5): each operation on the state keeps it, so every step does. -/

namespace Sys2Proof.Machine

/-! ### The operations -/

theorem inv_reset : Inv State.reset where
  bounded := Nat.zero_le _
  log := by simp [LogCorrect]
  output := by simp [OutputIsLastResponse]
  reads := by simp [ReadsDelivered]
  faults := by simp [FaultsNamed]

/-- The host's plan is no part of the invariant. -/
theorem Inv.withPlan {s : State} (h : Inv s) (requests : List PortRequest) (turns : List Turn) :
    Inv { s with requests := requests, turns := turns } :=
  ⟨h.bounded, h.log, h.output, h.reads, h.faults⟩

theorem Inv.acceptRequest {s : State} (h : Inv s) (hroom : s.pending.length < Config.maxInflight) (r : Request) :
    Inv (acceptRequest r s) where
  bounded := by simpa [PendingBounded] using hroom
  log := h.log
  output := h.output
  reads := h.reads
  faults := h.faults

theorem Inv.raiseFault {s : State} (h : Inv s) {f : Fault} (hf : recordNamed f) : Inv (raiseFault f s) where
  bounded := h.bounded
  log := h.log
  output := h.output
  reads := h.reads
  faults := List.forall_mem_append.2 ⟨h.faults, List.forall_mem_singleton.2 hf⟩

/-- The record that an Issue raises names a field, and names OP as its OP value tells (60_exceptions.md R102, R103). -/
theorem recordNamed_operandNoValue {p : PortRequest} (h : sampleRequest p = none) :
    recordNamed (.operandNoValue (undrivenFields p) p.op) := by
  have hill : ¬p.wellFormed = true := by simp [sampleRequest_eq_none_iff.1 h]
  refine ⟨mt (undrivenFields_eq_nil p).1 hill, ?_⟩
  rw [mem_undrivenFields, PortRequest.hasValue, Option.isSome_eq_false_iff, Option.isNone_iff_eq_none]

theorem Inv.presentRequest {s : State} (h : Inv s) (hroom : s.pending.length < Config.maxInflight) (p : PortRequest) :
    Inv (presentRequest p s) := by
  rcases presentRequest_cases p s with ⟨r, -, heq⟩ | ⟨hnone, heq⟩ <;> rw [heq]
  · exact h.acceptRequest hroom r
  · exact h.raiseFault (recordNamed_operandNoValue hnone)

/-- Completing the oldest request appends a correct response and makes it BLK_OUT. -/
theorem Inv.complete {s : State} (h : Inv s) {r : Request} {rest : List Request} (hp : s.pending = r :: rest) :
    Inv (deliver r (requestResult r) { s with pending := rest }) where
  bounded := (Nat.le_succ _).trans (hp ▸ h.bounded : (r :: rest).length ≤ _)
  log := List.forall_mem_append.2 ⟨h.log, List.forall_mem_singleton.2 rfl⟩
  output := by simp [OutputIsLastResponse]
  reads := fun v hv => by
    obtain ⟨e, he, hev⟩ := h.reads v hv
    exact ⟨e, List.mem_append_left _ he, hev⟩
  faults := h.faults

/-- What BLK_OUT holds is a response of the log. -/
theorem OutputIsLastResponse.exists_mem {s : State} (h : OutputIsLastResponse s) {v : Block} (hv : s.blkOut = some v) :
    ∃ e ∈ s.rspLog, e.2 = v := by
  obtain ⟨e, he, hev⟩ := Option.map_eq_some_iff.1 (h v hv)
  exact ⟨e, List.mem_of_getLast? he, hev⟩

theorem Inv.readBlkOut {s : State} (h : Inv s) : Inv (readBlkOut s) := by
  rcases readBlkOut_cases s with ⟨v, hv, heq⟩ | ⟨-, heq⟩ <;> rw [heq]
  · exact { bounded := h.bounded, log := h.log, output := h.output, faults := h.faults
            reads := List.forall_mem_append.2 ⟨h.reads, List.forall_mem_singleton.2 (h.output.exists_mem hv)⟩ }
  · exact h.raiseFault trivial

theorem Inv.resetCore {s : State} (h : Inv s) : Inv (resetCore s) where
  bounded := Nat.zero_le _
  log := h.log
  output := by simp [OutputIsLastResponse]
  reads := h.reads
  faults := h.faults

/-! ### The step -/

/-- Settles O46: at reset every list the invariant speaks of is empty and BLK_OUT has no value. -/
theorem invariantAtReset : Obligations.InvariantAtReset := inv_reset

theorem Happens.inv {s t : State} {tn : Turn} (h : Happens Config.maxInflight s tn t) (hs : Inv s) : Inv t := by
  cases h with
  | noIssue => exact hs
  | issue p rest hr hroom => exact (hs.withPlan rest s.turns).presentRequest hroom p
  | noComplete hp => exact hs
  | complete r rest hp => exact hs.complete hp
  | read => exact hs.readBlkOut
  | reset => exact hs.resetCore

/-- Settles O47: every kind of step is one of the operations above, and taking a turn off the list changes nothing the invariant
speaks of. -/
theorem stepKeepsInvariant : Obligations.StepKeepsInvariant := by
  intro s t hs h
  rcases stepWith_cases h with ⟨tn, ts, -, hh⟩ | ⟨tn, -, -, hh⟩ | ⟨-, -, rfl⟩
  · exact hh.inv (hs.withPlan s.requests ts)
  · exact hh.inv hs
  · exact hs

end Sys2Proof.Machine
end

section
/-! PROOFS. More laws of the datapath functions and the block operations (41_datapath_functions.md R63, R66, R68; 42_block_operations.md
R81, R86 to R91; 10_state.md R16). -/

namespace Sys2Proof.Machine

/-- Settles O2: the three inverse laws (R63). -/
theorem packAndHalvesInverse : Obligations.PackAndHalvesInverse :=
  ⟨fun a b => ⟨highHalf_pack a b, lowHalf_pack a b⟩, pack_highHalf_lowHalf⟩

/-! ### The byte mixers and F -/

theorem g0_comm (a b : Byte) : g0 a b = g0 b a := by
  rw [g0, g0, BitVec.add_comm]

theorem g1_comm (a b : Byte) : g1 a b = g1 b a := by
  rw [g1, g1, BitVec.add_comm a b]

/-- Bits 5:0 of a byte are its value mod 64. -/
theorem setWidth_six_eq_of_toNat_mod {a b : Byte} (h : a.toNat % 64 = b.toNat % 64) : a.setWidth 6 = b.setWidth 6 := by
  apply BitVec.eq_of_toNat_eq
  simpa only [BitVec.toNat_setWidth] using h

/-- Settles O5: the laws that compare operands follow from the mixers as sums of bits 5:0, the others from their exact arithmetic
(R66). -/
theorem mixerLaws : Obligations.MixerLaws := by
  refine ⟨fun a b => ⟨g0_comm a b, g1_comm a b⟩, fun a b => ?_, fun a b a' b' ha hb => ?_, fun a b => ?_, fun a b => ?_,
    fun a b => ?_⟩
  · rw [g0_toNat, g1_toNat]
    omega
  · rw [g0_eq_append, g0_eq_append, g1_eq_append, g1_eq_append, setWidth_six_eq_of_toNat_mod ha, setWidth_six_eq_of_toNat_mod hb]
    exact ⟨rfl, rfl⟩
  · rw [g0_toNat]
    omega
  · have h0 : (g0 a b).toNat = 4 * ((a.toNat + b.toNat) % 64) := by
      rw [g0_toNat]
      omega
    have h1 : (g1 a b).toNat = 4 * ((a.toNat + b.toNat + 1) % 64) := by
      rw [g1_toNat]
      omega
    exact ⟨⟨_, Nat.mod_lt _ (by decide)⟩, ⟨_, Nat.mod_lt _ (by decide)⟩, h0, h1⟩
  · rw [g0_toNat, g1_toNat]
    omega

/-- Two vectors that masks clear are cleared side by side by the masks side by side. -/
theorem append_and_append_eq_zero {m n : Nat} {x mx : BitVec m} {y my : BitVec n} (hx : x &&& mx = 0) (hy : y &&& my = 0) :
    (x ++ y) &&& (mx ++ my) = 0 := by
  rw [BitVec.and_append, hx, hy]
  exact BitVec.zero_append_zero

/-- Each byte of F's result is a result of a mixer, so its two low bits are zero (R68 (a)). -/
theorem roundF_and_low_bits (v : Half) : roundF v &&& 0x03030303 = 0 := by
  have hmask : (0x03030303 : Half) = (0x03 : Byte) ++ (0x03 : Byte) ++ (0x03 : Byte) ++ (0x03 : Byte) := by decide
  rw [hmask]
  exact append_and_append_eq_zero
    (append_and_append_eq_zero (append_and_append_eq_zero (g0_and_three _ _) (g1_and_three _ _)) (g0_and_three _ _))
    (g1_and_three _ _)

/-- Settles O7: the laws (a) and (b) of R68 for every operand, and two operands with the same value of F. -/
theorem roundFunctionIgnoresTopBits : Obligations.RoundFunctionIgnoresTopBits := by
  have htop : roundF 0xC0C0C0C0 = roundF 0x00000000 := by decide
  refine ⟨roundF_and_low_bits, fun v => (roundF_mask v).symm, htop, by decide, fun hinj => ?_⟩
  exact absurd (hinj htop) (by decide)

/-! ### The stages -/

/-- Settles O9: the cross-mix and its inverse law (R81), and its two places in the map that ENC and DEC share. -/
theorem crossMixIsItsOwnInverse : Obligations.CrossMixIsItsOwnInverse :=
  ⟨xmix_mk, xmix_xmix, encrypt_eq_cipherBlock, decrypt_eq_cipherBlock⟩

/-- Settles O12: the stages are listed as they are formed, and `feistel4` is stages 1 to 4 (10_state.md R16). -/
theorem stagesLeadToResult : Obligations.StagesLeadToResult := fun _ _ =>
  ⟨⟨_, _, _, _, _, _, rfl, rfl, rfl, rfl, rfl, rfl, rfl, rfl⟩, _, _, _, _, _, _, rfl, rfl, rfl, rfl, rfl, rfl, rfl, rfl⟩

/-! ### ENC and DEC are inverse permutations -/

/-- ENC uses DEC's round keys in the opposite order (30_encoding.md R44). -/
theorem roundKeysEnc_eq_reversed (k : SubkeySet) : roundKeysEnc k = (roundKeysDec k).reversed := rfl

/-- Settles O14: DEC's whitening comes last and ENC's first, so they cancel, and ENC's shared map undoes DEC's (R86). -/
theorem encryptUndoesDecrypt : Obligations.EncryptUndoesDecrypt := by
  intro y k
  rw [encrypt_eq_cipherBlock, decrypt_eq_cipherBlock, xor_cancel_right, roundKeysEnc_eq_reversed, cipherBlock_reversed]

/-- Settles O15: each of the two maps has the other for its inverse on both sides (R87). -/
theorem blockOperationsArePermutations : Obligations.BlockOperationsArePermutations := by
  intro k
  have hdec : ∀ x, decrypt (encrypt x k) k = x := fun x => decryptUndoesEncrypt x k
  have henc : ∀ y, encrypt (decrypt y k) k = y := fun y => encryptUndoesDecrypt y k
  exact ⟨Function.bijective_iff_has_inverse.2 ⟨fun y => decrypt y k, hdec, henc⟩,
    Function.bijective_iff_has_inverse.2 ⟨fun x => encrypt x k, henc, hdec⟩⟩

/-! ### The whitening key -/

@[simp] theorem pack_zero_zero : pack 0 0 = 0 := by decide

/-- With k4 and k5 zero nothing is whitened (R88). -/
theorem whiteningKey_eq_zero {k : SubkeySet} (h4 : k.k4 = 0) (h5 : k.k5 = 0) : whiteningKey k = 0 := by
  rw [whiteningKey, h4, h5, pack_zero_zero]

/-- Without whitening ENC is the shared map (R88). -/
theorem encrypt_of_unwhitened {k : SubkeySet} (h4 : k.k4 = 0) (h5 : k.k5 = 0) (x : Block) :
    encrypt x k = cipherBlock x (roundKeysEnc k) := by
  rw [encrypt_eq_cipherBlock, whiteningKey_eq_zero h4 h5]
  exact congrArg (cipherBlock · _) BitVec.xor_zero

/-- Without whitening DEC is the shared map (R88). -/
theorem decrypt_of_unwhitened {k : SubkeySet} (h4 : k.k4 = 0) (h5 : k.k5 = 0) (y : Block) :
    decrypt y k = cipherBlock y (roundKeysDec k) := by
  rw [decrypt_eq_cipherBlock, whiteningKey_eq_zero h4 h5]
  exact BitVec.xor_zero

/-- Settles O16: with k4 and k5 zero the shared map is left, and the round keys do not depend on k4 and k5 (R88). -/
theorem whiteningFactorsOut : Obligations.WhiteningFactorsOut := by
  intro x y k
  rw [encrypt_of_unwhitened (k := { k with k4 := 0, k5 := 0 }) rfl rfl,
    decrypt_of_unwhitened (k := { k with k4 := 0, k5 := 0 }) rfl rfl]
  exact ⟨encrypt_eq_cipherBlock x k, decrypt_eq_cipherBlock y k⟩

/-- Settles O19: the round keys of a symmetric set read the same in both orders, so without whitening ENC is DEC, which undoes it
(R91). -/
theorem symmetricSubkeysMakeInvolution : Obligations.SymmetricSubkeysMakeInvolution := by
  have hsame : ∀ (x : Block) (k : SubkeySet), k.k0 = k.k3 → k.k1 = k.k2 → k.k4 = 0 → k.k5 = 0 → encrypt x k = decrypt x k := by
    intro x k h03 h12 h4 h5
    rw [encrypt_of_unwhitened h4 h5, decrypt_of_unwhitened h4 h5, roundKeysEnc, roundKeysDec, h03, h12]
  refine ⟨fun x k h03 h12 h4 h5 => ⟨hsame x k h03 h12 h4 h5, ?_⟩, fun x => hsame x _ rfl rfl rfl rfl⟩
  rw [hsame _ k h03 h12 h4 h5, decryptUndoesEncrypt]

/-! ### What a change of a subkey changes -/

theorem pack_inj {a b a' b' : Half} : pack a b = pack a' b' ↔ a = a' ∧ b = b' := by
  refine ⟨fun h => ⟨?_, ?_⟩, fun ⟨ha, hb⟩ => ha ▸ hb ▸ rfl⟩
  · simpa using congrArg highHalf h
  · simpa using congrArg lowHalf h

/-- The shared map has an inverse, so it is injective for fixed round keys. -/
theorem cipherBlock_inj {v w : Block} {rk : RoundKeys} : cipherBlock v rk = cipherBlock w rk ↔ v = w :=
  (Function.LeftInverse.injective (g := (cipherBlock · rk.reversed)) (cipherBlock_reversed · rk)).eq_iff

/-- With the round keys as they are, ENC gives the same ciphertext exactly when the whitening key is the same (R89 (a)). -/
theorem encrypt_whitening_inj {x : Block} {k : SubkeySet} {a b : Half} :
    encrypt x { k with k4 := a, k5 := b } = encrypt x k ↔ a = k.k4 ∧ b = k.k5 :=
  cipherBlock_inj.trans ((BitVec.xor_right_inj x).trans pack_inj)

/-- A change of a round key outside the mask 0x3F3F3F3F does not change the unswapped round (R69, R89 (b)). -/
theorem finalRound_xor_key {m : Half} (hm : m &&& 0x3F3F3F3F = 0) (h : Halves) (key : Half) :
    finalRound h (key ^^^ m) = finalRound h key := by
  obtain ⟨l, r⟩ := h
  rw [finalRound_mk, finalRound_mk, ← BitVec.xor_assoc, roundF_xor_of_and_mask_eq_zero hm]

/-- A change of a round key outside the mask 0x3F3F3F3F does not change the swapped round (R69, R89 (b)). -/
theorem swappedRound_xor_key {m : Half} (hm : m &&& 0x3F3F3F3F = 0) (h : Halves) (key : Half) :
    swappedRound h (key ^^^ m) = swappedRound h key := by
  rw [swappedRound_eq_swapHalves, swappedRound_eq_swapHalves, finalRound_xor_key hm]

/-- Settles O17: k4 and k5 enter through the injective shared map, k0 to k3 through one round each, which ignores the change; the four
samples of V-K2 are evaluated (R89). -/
theorem whatTheSubkeysChange : Obligations.WhatTheSubkeysChange := by
  refine ⟨fun x k a b hne heq => ?_, fun x k m hm => ?_, by decide, by decide, by decide, by decide⟩
  · obtain ⟨ha, hb⟩ := encrypt_whitening_inj.1 heq
    exact hne.elim (absurd ha) (absurd hb)
  · simp only [encrypt, decrypt, feistel4, roundKeysEnc, roundKeysDec, whiteningKey, swappedRound_xor_key hm, finalRound_xor_key hm,
      and_self]

/-! ### Differences within 0xC0C0C0C0 -/

/-- The difference `e` put on a pair of halves. -/
def xorHalves (h e : Halves) : Halves := ⟨h.left ^^^ e.left, h.right ^^^ e.right⟩

theorem xorHalves_mk (a b c d : Half) : xorHalves ⟨a, b⟩ ⟨c, d⟩ = ⟨a ^^^ c, b ^^^ d⟩ := rfl

theorem swapHalves_xorHalves (h e : Halves) : swapHalves (xorHalves h e) = xorHalves (swapHalves h) (swapHalves e) := rfl

/-- The XOR of two sums is the sum of the XORs. -/
theorem xor_xor_xor_comm {n : Nat} (a b c d : BitVec n) : (a ^^^ b) ^^^ (c ^^^ d) = (a ^^^ c) ^^^ (b ^^^ d) := by
  ac_rfl

theorem xmix_xorHalves (h e : Halves) : xmix (xorHalves h e) = xorHalves (xmix h) (xmix e) := by
  obtain ⟨l, r⟩ := h
  obtain ⟨a, b⟩ := e
  rw [xorHalves_mk, xmix_mk, xmix_mk, xmix_mk, xorHalves_mk, xor_xor_xor_comm]

theorem splitBlock_xor (v w : Block) : splitBlock (v ^^^ w) = xorHalves (splitBlock v) (splitBlock w) := by
  simp only [splitBlock, highHalf, lowHalf, BitVec.extractLsb'_xor, xorHalves_mk]

theorem packHalves_xorHalves (h e : Halves) : packHalves (xorHalves h e) = packHalves h ^^^ packHalves e :=
  BitVec.xor_append.symm

/-- A difference that F does not see in the right half passes the unswapped round as it is (R90). -/
theorem finalRound_xorHalves {e : Halves} (he : e.right &&& 0x3F3F3F3F = 0) (h : Halves) (key : Half) :
    finalRound (xorHalves h e) key = xorHalves (finalRound h key) e := by
  obtain ⟨l, r⟩ := h
  obtain ⟨a, b⟩ := e
  have hF : roundF (r ^^^ b ^^^ key) = roundF (r ^^^ key) := by
    rw [BitVec.xor_assoc, BitVec.xor_comm b, ← BitVec.xor_assoc, roundF_xor_of_and_mask_eq_zero he]
  rw [xorHalves_mk, finalRound_mk, finalRound_mk, xorHalves_mk, hF, BitVec.xor_assoc, BitVec.xor_comm a, ← BitVec.xor_assoc]

/-- A difference that F sees in neither half passes the four rounds, exchanged by the three swaps (R90). -/
theorem feistel4_xorHalves {e : Halves} (hl : e.left &&& 0x3F3F3F3F = 0) (hr : e.right &&& 0x3F3F3F3F = 0) (h : Halves)
    (rk : RoundKeys) : feistel4 (xorHalves h e) rk = xorHalves (feistel4 h rk) (swapHalves e) := by
  have hswap : (swapHalves e).right &&& 0x3F3F3F3F = 0 := hl
  simp only [feistel4, swappedRound_eq_swapHalves, finalRound_xorHalves, swapHalves_xorHalves, swapHalves_swapHalves, hr, hswap]

/-- A difference that the cross-mix turns into one that F sees in neither half passes the shared map linearly: cross-mixed, exchanged,
and cross-mixed again (R90). -/
theorem cipherBlock_xor_packHalves {e : Halves} {a b : Half} (he : xmix e = ⟨a, b⟩) (ha : a &&& 0x3F3F3F3F = 0)
    (hb : b &&& 0x3F3F3F3F = 0) (v : Block) (rk : RoundKeys) :
    cipherBlock (v ^^^ packHalves e) rk = cipherBlock v rk ^^^ packHalves (xmix ⟨b, a⟩) := by
  have hrounds : ∀ h : Halves, feistel4 (xorHalves h ⟨a, b⟩) rk = xorHalves (feistel4 h rk) ⟨b, a⟩ :=
    fun h => feistel4_xorHalves ha hb h rk
  rw [cipherBlock, splitBlock_xor, splitBlock_packHalves, xmix_xorHalves, he, hrounds, xmix_xorHalves, packHalves_xorHalves,
    ← cipherBlock]

/-- The three differences of R90 through the shared map. -/
theorem cipherBlock_xor_pack {d : Half} (hd : d &&& 0x3F3F3F3F = 0) (v : Block) (rk : RoundKeys) :
    cipherBlock (v ^^^ pack d 0) rk = cipherBlock v rk ^^^ pack d 0 ∧ cipherBlock (v ^^^ pack 0 d) rk = cipherBlock v rk ^^^ pack d d ∧
      cipherBlock (v ^^^ pack d d) rk = cipherBlock v rk ^^^ pack 0 d := by
  have h0 : (0 : Half) &&& 0x3F3F3F3F = 0 := BitVec.zero_and
  have hleft : xmix ⟨d, 0⟩ = ⟨d, d⟩ := by simp [xmix]
  have hright : xmix ⟨0, d⟩ = ⟨0, d⟩ := by simp [xmix]
  have hboth : xmix ⟨d, d⟩ = ⟨d, 0⟩ := by simp [xmix]
  refine ⟨?_, ?_, ?_⟩
  · simpa only [hboth, packHalves] using cipherBlock_xor_packHalves hleft hd hd v rk
  · simpa only [hleft, packHalves] using cipherBlock_xor_packHalves hright h0 hd v rk
  · simpa only [hright, packHalves] using cipherBlock_xor_packHalves hboth hd h0 v rk

/-- Settles O18: whitening keeps a difference, and the shared map takes each of the three to the one R90 gives. -/
theorem linearDifferences : Obligations.LinearDifferences := by
  intro d x y k hd
  have hcomm : ∀ u v w : Block, u ^^^ v ^^^ w = u ^^^ w ^^^ v := fun u v w => by ac_rfl
  obtain ⟨henc0, henc1, -⟩ := cipherBlock_xor_pack hd (x ^^^ whiteningKey k) (roundKeysEnc k)
  obtain ⟨hdec0, -, hdec1⟩ := cipherBlock_xor_pack hd y (roundKeysDec k)
  refine ⟨?_, ?_, ?_, ?_⟩
  · rw [encrypt_eq_cipherBlock, hcomm, henc0, encrypt_eq_cipherBlock]
  · rw [encrypt_eq_cipherBlock, hcomm, henc1, encrypt_eq_cipherBlock]
  · rw [decrypt_eq_cipherBlock, hdec0, hcomm, decrypt_eq_cipherBlock]
  · rw [decrypt_eq_cipherBlock, hdec1, hcomm, decrypt_eq_cipherBlock]

end Sys2Proof.Machine
end

section
/-! PROOFS. The step by the turn it takes (60_exceptions.md R106; log entries 1 to 5): one equation per case of the plan, and what these
say of single steps and pairs of steps. -/

namespace Sys2Proof.Machine

/-! ### Which turn a step takes -/

theorem step_of_turn {s : State} {tn : Turn} {ts : List Turn} (h : s.turns = tn :: ts) :
    step s = takeTurn Config.maxInflight tn { s with turns := ts } := by
  simp [step, stepWith, h]

theorem step_of_drainTurn {s : State} {tn : Turn} (h : s.turns = []) (hd : drainTurn s = some tn) :
    step s = takeTurn Config.maxInflight tn s := by
  simp [step, stepWith, h, hd]

theorem drainTurn_of_pending {s : State} {r : Request} {rest : List Request} (h : s.pending = r :: rest) :
    drainTurn s = some .complete := by
  simp [drainTurn, h]

theorem drainTurn_of_requests {s : State} {p : PortRequest} {rest : List PortRequest} (hp : s.pending = [])
    (hr : s.requests = p :: rest) : drainTurn s = some .issue := by
  simp [drainTurn, hp, hr]

/-- At the end of a run a step changes nothing (R117; log entry 2). -/
theorem step_of_runOver {s : State} (h : s.turns = []) (hover : RunOver s) : step s = .next s := by
  simp [step, stepWith, drainTurn, h, hover]

theorem stepWith_next (cap : Nat) (s : State) : ∃ t, stepWith cap s = .next t := by
  unfold stepWith
  split
  · exact (takeTurn_next _ _ _).imp fun _ h => h.1
  · split
    · exact (takeTurn_next _ _ _).imp fun _ h => h.1
    · exact ⟨s, rfl⟩

/-- Settles O39: every turn answers a next state, and with no turn left the state itself is answered (R100). -/
theorem everyStepCompletes : Obligations.EveryStepCompletes := fun s => stepWith_next Config.maxInflight s

/-! ### Complete turns -/

/-- Complete runs the oldest request, decoded (10_state.md R21). -/
theorem completeOldest_eq_exec {s : State} {r : Request} {rest : List Request} (h : s.pending = r :: rest) :
    completeOldest s = exec (decodeRequest r) { s with pending := rest } := by
  simp [completeOldest, h]

theorem step_complete {s : State} {r : Request} {rest : List Request} {ts : List Turn} (hp : s.pending = r :: rest)
    (ht : s.turns = .complete :: ts) : step s = exec (decodeRequest r) { s with pending := rest, turns := ts } :=
  (step_of_turn ht).trans (completeOldest_eq_exec hp)

theorem step_drain_complete {s : State} {r : Request} {rest : List Request} (hp : s.pending = r :: rest) (ht : s.turns = []) :
    step s = exec (decodeRequest r) { s with pending := rest } :=
  (step_of_drainTurn ht (drainTurn_of_pending hp)).trans (completeOldest_eq_exec hp)

/-- A table word that decodes is a number of the request word's length, and what is decoded is that request word. -/
theorem decodeTableWord_eq_some {nbits w : Nat} {i : Instr} (h : decodeTableWord nbits w = some i) :
    ∃ v, wordOfNat (w % 2 ^ nbits) = some v ∧ decodeWord v = i := by
  cases hv : wordOfNat (w % 2 ^ nbits) with
  | none => simp [decodeTableWord, decode, hv] at h
  | some v => exact ⟨v, rfl, by simpa [decodeTableWord, decode, hv] using h⟩

theorem withFetchWord_of_wordOfNat {nbits w : Nat} {v : ReqWord} (h : wordOfNat (w % 2 ^ nbits) = some v) (s : State) :
    s.withFetchWord nbits w = { s with pending := requestOfWord v :: s.pending.tail, turns := .complete :: s.turns } := by
  simp [State.withFetchWord, placeWord, h]

/-- Settles O32: a complete turn and a drain with a request pending both complete it, and a placed word puts its request at the head of
PENDING with the CORE's turn before the others (R21; log entries 2 and 10). -/
theorem stepRunsDecodedRequest : Obligations.StepRunsDecodedRequest := by
  refine ⟨fun s r rest ts => step_complete, fun s r rest => step_drain_complete, fun s nbits w i h => ?_⟩
  obtain ⟨v, hv, rfl⟩ := decodeTableWord_eq_some h
  rw [withFetchWord_of_wordOfNat hv]
  exact step_complete rfl rfl

/-! ### The other turns -/

theorem step_issue {s : State} {ts : List Turn} (h : s.turns = .issue :: ts) :
    step s = .next (issueNext Config.maxInflight { s with turns := ts }) := step_of_turn h

theorem step_read {s : State} {ts : List Turn} (h : s.turns = .read :: ts) : step s = .next (readBlkOut { s with turns := ts }) :=
  step_of_turn h

theorem step_reset {s : State} {ts : List Turn} (h : s.turns = .reset :: ts) : step s = .next (resetCore { s with turns := ts }) :=
  step_of_turn h

theorem step_complete_nil {s : State} {ts : List Turn} (hp : s.pending = []) (ht : s.turns = .complete :: ts) :
    step s = .next { s with turns := ts } :=
  (step_of_turn ht).trans (completeOldest_nil hp)

theorem step_complete_cons {s : State} {r : Request} {rest : List Request} {ts : List Turn} (hp : s.pending = r :: rest)
    (ht : s.turns = .complete :: ts) : step s = .next (deliver r (requestResult r) { s with pending := rest, turns := ts }) :=
  (step_of_turn ht).trans (completeOldest_cons (s := { s with turns := ts }) hp)

theorem issueNext_nil {cap : Nat} {s : State} (h : s.requests = []) : issueNext cap s = s := by
  simp [issueNext, h]

/-- With PENDING full the host is held (10_state.md R20). -/
theorem issueNext_of_full {cap : Nat} {s : State} (h : cap ≤ s.pending.length) : issueNext cap s = s := by
  rcases issueNext_cases cap s with heq | ⟨p, rest, -, hroom, -⟩
  · exact heq
  · exact absurd h hroom.not_ge

/-- With room in PENDING the head of the host's requests is presented (10_state.md R20). -/
theorem issueNext_of_room {cap : Nat} {s : State} {p : PortRequest} {rest : List PortRequest} (hr : s.requests = p :: rest)
    (hroom : s.pending.length < cap) : issueNext cap s = presentRequest p { s with requests := rest } := by
  rw [← presentRequest_requests]
  simp [issueNext, hr, issueRequest_of_lt p hroom]

/-- Presenting a request does not look at the host's plan. -/
theorem presentRequest_withPlan (p : PortRequest) (rest : List PortRequest) (ts : List Turn) (s : State) :
    presentRequest p { s with requests := rest, turns := ts } = { presentRequest p s with requests := rest, turns := ts } := by
  unfold presentRequest
  split <;> rfl

/-- A read turn is the host's read, with the value it returned, if any, kept in readLog (log entry 5). -/
theorem readBlkOut_eq (s : State) : readBlkOut s = { (hostRead s).2 with readLog := s.readLog ++ (hostRead s).1.toList } := by
  rcases readBlkOut_cases s with ⟨v, hv, heq⟩ | ⟨hnone, heq⟩ <;> rw [heq]
  · rw [hostRead_of_some hv, Option.toList_some]
  · rw [hostRead_of_none hnone, Option.toList_none, List.append_nil]
    rfl

theorem hostRead_withTurns (ts : List Turn) (s : State) :
    hostRead { s with turns := ts } = ((hostRead s).1, { (hostRead s).2 with turns := ts }) := by
  cases h : s.blkOut with
  | some v => simp [hostRead, h]
  | none => simp [hostRead, h, raiseFault]

/-- Settles O38: each kind of turn by its equation, in the state with the turn off the list. -/
theorem turnsAroundTheOperations : Obligations.TurnsAroundTheOperations := by
  intro s ts
  refine ⟨fun p rest ht hr => ⟨fun hheld => ?_, fun t hissue => ?_⟩, fun ht hr => ?_, fun ht hp => step_complete_nil hp ht,
    fun ht => ?_, step_reset⟩
  · rw [step_issue ht, issueNext_of_full]
    exact (issueRequest_eq_none_iff (s := s)).1 hheld
  · obtain ⟨hroom, ht_eq⟩ := Option.ite_none_right_eq_some.1 hissue
    obtain rfl := Option.some.inj ht_eq
    rw [step_issue ht, issueNext_of_room (s := { s with turns := ts }) hr hroom]
    exact congrArg Host.Outcome.next (presentRequest_withPlan p rest ts s)
  · rw [step_issue ht, issueNext_nil]
    exact hr
  · rw [step_read ht, readBlkOut_eq, hostRead_withTurns]

/-! ### Reset -/

/-- Settles O40: the four fields of the state after reset (10_state.md R19, 70_reset_and_hazards.md R121). -/
theorem resetState : Obligations.ResetState := ⟨reset_pending, reset_blkOut, reset_rspLog, reset_faults⟩

/-- A run of `n + 1` steps goes on from the first step's state. -/
theorem runSteps_succ_of_step {n : Nat} {s u : State} (h : step s = .next u) : runSteps (n + 1) s = runSteps n u := by
  simp [runSteps, h]

theorem runSteps_two {s u : State} (h : step s = .next u) : runSteps 2 s = step u := by
  obtain ⟨t, ht⟩ := everyStepCompletes u
  rw [runSteps_succ_of_step h, runSteps_succ_of_step ht, ht, runSteps]

/-- Settles O42: the reset leaves PENDING empty, which is room for the request (70_reset_and_hazards.md R122). -/
theorem readyAfterReset : Obligations.ReadyAfterReset := by
  intro s r rest ts ht hr
  have hissue := issueNext_of_room (s := resetCore { s with turns := ts }) hr Config.maxInflight_pos
  rw [presentRequest_driveRequest] at hissue
  rw [runSteps_two (step_reset ht), step_issue rfl]
  exact congrArg Host.Outcome.next hissue

/-- Settles O43: Complete first, the reset abandons what is left; reset first, the complete turn finds nothing pending and passes (R106,
70_reset_and_hazards.md R120). -/
theorem resetAndCompleteInEitherOrder : Obligations.ResetAndCompleteInEitherOrder := by
  intro s r rest ts hp
  refine ⟨?_, ?_⟩
  · rw [runSteps_two (step_complete_cons (s := { s with turns := .complete :: .reset :: ts }) hp rfl), step_reset rfl]
    rfl
  · rw [runSteps_two (step_reset rfl), step_complete_nil rfl rfl]
    rfl

/-! ### BLK_OUT -/

@[simp] theorem presentRequest_blkOut (p : PortRequest) (s : State) : (presentRequest p s).blkOut = s.blkOut := by
  rcases presentRequest_cases p s with ⟨r, -, h⟩ | ⟨-, h⟩ <;> simp [h]

@[simp] theorem readBlkOut_blkOut (s : State) : (readBlkOut s).blkOut = s.blkOut := by
  rcases readBlkOut_cases s with ⟨v, -, h⟩ | ⟨-, h⟩ <;> simp [h]

/-- A turn leaves BLK_OUT alone, unless it is a reset, or a Complete with a request to answer. -/
theorem Happens.blkOut_cases {cap : Nat} {s t : State} {tn : Turn} (h : Happens cap s tn t) :
    t.blkOut = s.blkOut ∨ (tn = .reset ∧ t.blkOut = none) ∨
      (tn = .complete ∧ ∃ r rest, s.pending = r :: rest ∧ t.pending = rest ∧ t.blkOut = some (requestResult r)) := by
  cases h with
  | noIssue => exact .inl rfl
  | issue p rest hr hroom => exact .inl (presentRequest_blkOut p _)
  | noComplete hp => exact .inl rfl
  | complete r rest hp => exact .inr (.inr ⟨rfl, r, rest, hp, rfl, rfl⟩)
  | read => exact .inl (readBlkOut_blkOut s)
  | reset => exact .inr (.inl ⟨rfl, rfl⟩)

@[simp] theorem presentRequest_turns (p : PortRequest) (s : State) : (presentRequest p s).turns = s.turns := by
  rcases presentRequest_cases p s with ⟨r, -, h⟩ | ⟨-, h⟩ <;> simp [h]

@[simp] theorem readBlkOut_turns (s : State) : (readBlkOut s).turns = s.turns := by
  rcases readBlkOut_cases s with ⟨v, -, h⟩ | ⟨-, h⟩ <;> simp [h]

/-- What a turn does leaves the turns to come as they are. -/
theorem Happens.turns_eq {cap : Nat} {s t : State} {tn : Turn} (h : Happens cap s tn t) : t.turns = s.turns := by
  cases h with
  | noIssue => rfl
  | issue p rest hr hroom => exact presentRequest_turns p _
  | noComplete hp => rfl
  | complete r rest hp => rfl
  | read => exact readBlkOut_turns s
  | reset => rfl

/-- A step with a turn listed takes that turn. -/
theorem happens_of_step {s t : State} {tn : Turn} {ts : List Turn} (ht : s.turns = tn :: ts) (h : step s = .next t) :
    Happens Config.maxInflight { s with turns := ts } tn t := by
  obtain ⟨u, hu, hh⟩ := takeTurn_next Config.maxInflight tn { s with turns := ts }
  rw [step_of_turn ht, hu, Host.Outcome.next.injEq] at h
  exact h ▸ hh

theorem step_blkOut_cases {s t : State} (h : step s = .next t) :
    t.blkOut = s.blkOut ∨ (t.blkOut = none ∧ ∃ ts, s.turns = .reset :: ts) ∨
      ∃ r rest, s.pending = r :: rest ∧ t.pending = rest ∧ t.blkOut = some (requestResult r) := by
  rcases stepWith_cases h with ⟨tn, ts, ht, hh⟩ | ⟨tn, -, hd, hh⟩ | ⟨-, -, rfl⟩
  · rcases hh.blkOut_cases with heq | ⟨rfl, hnone⟩ | ⟨-, hanswer⟩
    · exact .inl heq
    · exact .inr (.inl ⟨hnone, ts, ht⟩)
    · exact .inr (.inr hanswer)
  · rcases hh.blkOut_cases with heq | ⟨rfl, -⟩ | ⟨-, hanswer⟩
    · exact .inl heq
    · rcases drainTurn_some hd with ⟨hreset, -⟩ | ⟨hreset, -⟩ <;> cases hreset
    · exact .inr (.inr hanswer)
  · exact .inl rfl

/-- Over listed turns without a Complete BLK_OUT stays NONE. -/
theorem runSteps_blkOut_none (n : Nat) : ∀ {s t : State}, s.blkOut = none → (∀ tn ∈ s.turns.take n, tn ≠ .complete) →
    n ≤ s.turns.length → runSteps n s = .next t → t.blkOut = none := by
  induction n with
  | zero =>
    intro s t hnone _ _ h
    cases h
    exact hnone
  | succ n ih =>
    intro s t hnone hturns hn h
    obtain ⟨u, hu, hrun⟩ := runSteps_succ h
    cases hts : s.turns with
    | nil => simp [hts] at hn
    | cons tn ts =>
      rw [hts, List.take_succ_cons, List.forall_mem_cons] at hturns
      have hh := happens_of_step hts hu
      have hu_none : u.blkOut = none := by
        rcases hh.blkOut_cases with heq | ⟨-, heq⟩ | ⟨hc, -⟩
        · exact heq.trans hnone
        · exact heq
        · exact absurd hc hturns.1
      have hu_turns : u.turns = ts := hh.turns_eq
      refine ih hu_none (hu_turns ▸ hturns.2) ?_ hrun
      simpa [hu_turns, hts] using hn

/-- A read turn while BLK_OUT is NONE records ReadBeforeResult (R104). -/
theorem step_read_none {s : State} {ts : List Turn} (hnone : s.blkOut = none) (ht : s.turns = .read :: ts) :
    step s = .next (raiseFault .readBeforeResult { s with turns := ts }) := by
  rw [step_read ht, readBlkOut_eq, hostRead_withTurns, hostRead_of_none hnone, Option.toList_none, List.append_nil]
  rfl

/-- Settles O41: the step lemma for BLK_OUT, and its induction over the listed turns (70_reset_and_hazards.md R121). -/
theorem onlyCompleteGivesOutput : Obligations.OnlyCompleteGivesOutput := by
  refine ⟨fun s t => step_blkOut_cases, fun n s t hnone hturns hn hrun => ?_⟩
  have ht : t.blkOut = none := runSteps_blkOut_none n hnone hturns hn hrun
  exact ⟨ht, fun ts => step_read_none ht⟩

end Sys2Proof.Machine
end

section
/-! PROOFS. Runs (20_memory.md R36, 70_reset_and_hazards.md R124, 60_exceptions.md R117; log entry 2): without a reset the requests are
served in order, what is pending is answered once the turns are used up, and every run ends. -/

namespace Sys2Proof.Machine

/-! ### Runs and the list of turns -/

/-- Every run answers a state, since every step does. -/
theorem runSteps_next (n : Nat) : ∀ s : State, ∃ t, runSteps n s = .next t := by
  induction n with
  | zero => exact fun s => ⟨s, rfl⟩
  | succ n ih =>
    intro s
    obtain ⟨u, hu⟩ := everyStepCompletes s
    obtain ⟨t, ht⟩ := ih u
    exact ⟨t, (runSteps_succ_of_step hu).trans ht⟩

theorem runSteps_add {n m : Nat} {u t : State} (hm : runSteps m u = .next t) :
    ∀ {s : State}, runSteps n s = .next u → runSteps (n + m) s = .next t := by
  induction n with
  | zero =>
    intro s hn
    cases hn
    rwa [Nat.zero_add]
  | succ n ih =>
    intro s hn
    obtain ⟨v, hv, hrun⟩ := runSteps_succ hn
    rw [Nat.succ_add, runSteps_succ_of_step hv]
    exact ih hrun

/-- A step takes the turn it takes off the list. -/
theorem step_turns {s t : State} (h : step s = .next t) : t.turns = s.turns.tail := by
  rcases stepWith_cases h with ⟨tn, ts, hts, hh⟩ | ⟨tn, hts, -, hh⟩ | ⟨hts, -, rfl⟩
  · simpa [hts] using hh.turns_eq
  · simpa [hts] using hh.turns_eq
  · simp [hts]

theorem runSteps_turns (n : Nat) : ∀ {s t : State}, runSteps n s = .next t → t.turns = s.turns.drop n := by
  induction n with
  | zero =>
    intro s t h
    cases h
    rfl
  | succ n ih =>
    intro s t h
    obtain ⟨u, hu, hrun⟩ := runSteps_succ h
    rw [ih hrun, step_turns hu, List.drop_tail]

/-! ### Requests are served in order -/

/-- From `s` to `t` the host's requests `taken` were presented, in order, and the requests `done` answered, in order: `done` and then
PENDING of `t` are PENDING of `s` and then what was accepted of `taken` (R36). -/
structure Serves (taken : List PortRequest) (done : List Request) (s t : State) : Prop where
  requests : s.requests = taken ++ t.requests
  queue : s.pending ++ taken.filterMap sampleRequest = done ++ t.pending
  log : t.rspLog = s.rspLog ++ done.map answered

theorem Serves.refl (s : State) : Serves [] [] s s where
  requests := rfl
  queue := List.append_nil _
  log := (List.append_nil _).symm

theorem Serves.trans {taken taken' : List PortRequest} {done done' : List Request} {s u t : State} (h : Serves taken done s u)
    (h' : Serves taken' done' u t) : Serves (taken ++ taken') (done ++ done') s t where
  requests := by rw [h.requests, h'.requests, List.append_assoc]
  queue := by rw [List.filterMap_append, ← List.append_assoc, h.queue, List.append_assoc, h'.queue, List.append_assoc]
  log := by rw [h'.log, h.log, List.map_append, List.append_assoc]

/-- Presenting the head of the host's requests queues it, if it is sampled (10_state.md R20). -/
theorem serves_presentRequest {s : State} {p : PortRequest} {rest : List PortRequest} (hr : s.requests = p :: rest) :
    Serves [p] [] s (presentRequest p { s with requests := rest }) := by
  rcases presentRequest_cases p { s with requests := rest } with ⟨r, hp, h⟩ | ⟨hp, h⟩ <;> rw [h]
  · exact ⟨hr, by simp [hp], by simp⟩
  · exact ⟨hr, by simp [hp], by simp⟩

theorem serves_readBlkOut (s : State) : Serves [] [] s (readBlkOut s) := by
  rcases readBlkOut_cases s with ⟨v, -, h⟩ | ⟨-, h⟩ <;> rw [h]
  · exact ⟨rfl, by simp, by simp⟩
  · exact ⟨rfl, by simp, by simp⟩

/-- Every kind of step but a reset serves the requests in order: an Issue at the end of the queue, a Complete at its head. -/
theorem Happens.serves {cap : Nat} {s t : State} {tn : Turn} (h : Happens cap s tn t) (hne : tn ≠ .reset) :
    ∃ taken done, Serves taken done s t := by
  cases h with
  | noIssue => exact ⟨_, _, .refl s⟩
  | issue p rest hr hroom => exact ⟨_, _, serves_presentRequest hr⟩
  | noComplete hp => exact ⟨_, _, .refl s⟩
  | complete r rest hp => exact ⟨[], [r], rfl, by simp [hp], rfl⟩
  | read => exact ⟨_, _, serves_readBlkOut s⟩
  | reset => exact absurd rfl hne

/-- A step that takes no reset off the list serves the requests in order. -/
theorem step_serves {s t : State} (hne : ∀ tn ∈ s.turns.take 1, tn ≠ .reset) (h : step s = .next t) :
    ∃ taken done, Serves taken done s t := by
  rcases stepWith_cases h with ⟨tn, ts, hts, hh⟩ | ⟨tn, -, hd, hh⟩ | ⟨-, -, rfl⟩
  · obtain ⟨taken, done, hserves⟩ := hh.serves (hne tn (by simp [hts]))
    exact ⟨taken, done, hserves.requests, hserves.queue, hserves.log⟩
  · refine hh.serves ?_
    rcases drainTurn_some hd with ⟨rfl, -⟩ | ⟨rfl, -⟩ <;> decide
  · exact ⟨_, _, .refl _⟩

/-- A run that takes no reset off the list serves the requests in order. -/
theorem runSteps_serves (n : Nat) : ∀ {s t : State}, (∀ tn ∈ s.turns.take n, tn ≠ .reset) → runSteps n s = .next t →
    ∃ taken done, Serves taken done s t := by
  induction n with
  | zero =>
    intro s t _ h
    cases h
    exact ⟨_, _, .refl s⟩
  | succ n ih =>
    intro s t hne h
    obtain ⟨u, hu, hrun⟩ := runSteps_succ h
    have hne_first : ∀ tn ∈ s.turns.take 1, tn ≠ .reset := fun tn htn =>
      hne tn (List.take_subset_take_left _ (Nat.succ_le_succ (Nat.zero_le n)) htn)
    have hne_rest : ∀ tn ∈ u.turns.take n, tn ≠ .reset := by
      rw [step_turns hu, ← List.drop_one, List.take_drop, Nat.add_comm 1 n]
      exact fun tn htn => hne tn (List.mem_of_mem_drop htn)
    obtain ⟨taken, done, hfirst⟩ := step_serves hne_first hu
    obtain ⟨taken', done', hrest⟩ := ih hne_rest hrun
    exact ⟨_, _, hfirst.trans hrest⟩

/-- Settles O48: nothing being pending at first, the requests answered and then PENDING are what was accepted of the requests taken
(R36). -/
theorem responsesInIssueOrder : Obligations.ResponsesInIssueOrder := by
  intro n s t hempty hne hrun
  obtain ⟨taken, done, hserves⟩ := runSteps_serves n hne hrun
  have hqueue : taken.filterMap sampleRequest = done ++ t.pending := by simpa [hempty] using hserves.queue
  refine ⟨taken.length, done.length, ?_⟩
  rw [hserves.requests, List.drop_left, List.take_left, hqueue, List.take_left, List.drop_left]
  exact ⟨rfl, by simp, hserves.log, rfl⟩

/-! ### What is pending is answered -/

/-- Either all that was pending is answered, or what is left of it stands at the head of PENDING. -/
theorem Serves.answered_or_left {taken : List PortRequest} {done : List Request} {s t : State} (h : Serves taken done s t) :
    (∃ more, done = s.pending ++ more) ∨
      ∃ left, s.pending = done ++ left ∧ t.pending = left ++ taken.filterMap sampleRequest :=
  (List.append_eq_append_iff.1 h.queue).imp (fun ⟨more, hdone, _⟩ => ⟨more, hdone⟩) id

/-- With no turn listed the CORE answers what is pending, one request a step (R124; log entry 2). -/
theorem runSteps_drain (left : List Request) : ∀ {s : State} {more : List Request}, s.turns = [] → s.pending = left ++ more →
    ∃ t, runSteps left.length s = .next t ∧ t.rspLog = s.rspLog ++ left.map answered := by
  induction left with
  | nil => exact fun {s} _ _ _ => ⟨s, rfl, (List.append_nil _).symm⟩
  | cons r left ih =>
    intro s more hts hp
    have hstep : step s = .next (deliver r (requestResult r) { s with pending := left ++ more }) :=
      (step_of_drainTurn hts (drainTurn_of_pending hp)).trans (completeOldest_cons hp)
    obtain ⟨t, hrun, hlog⟩ := ih (s := deliver r (requestResult r) { s with pending := left ++ more }) hts rfl
    refine ⟨t, (runSteps_succ_of_step hstep).trans hrun, ?_⟩
    rw [hlog, deliver_rspLog, List.append_assoc]
    rfl

/-- The turns up to the first reset, or all of them. -/
theorem exists_turns_before_reset (turns : List Turn) :
    ∃ n ≤ turns.length, (∀ tn ∈ turns.take n, tn ≠ .reset) ∧ (turns.drop n = [] ∨ ∃ ts, turns.drop n = .reset :: ts) := by
  induction turns with
  | nil => exact ⟨0, Nat.le_refl 0, by simp, .inl rfl⟩
  | cons tn turns ih =>
    by_cases htn : tn = .reset
    · exact ⟨0, Nat.zero_le _, by simp, .inr ⟨turns, by simp [htn]⟩⟩
    · obtain ⟨n, hn, hne, hend⟩ := ih
      exact ⟨n + 1, Nat.succ_le_succ hn, by simpa [htn] using hne, by simpa using hend⟩

/-- Settles O49: the listed turns are taken up to the first reset; if there is none, the drain answers what is left of PENDING (R124; log
entry 2). -/
theorem everyPendingRequestCompletes : Obligations.EveryPendingRequestCompletes := by
  intro s
  obtain ⟨n, hn, hne, hend⟩ := exists_turns_before_reset s.turns
  obtain ⟨u, hu⟩ := runSteps_next n s
  obtain ⟨taken, done, hserves⟩ := runSteps_serves n hne hu
  rw [← runSteps_turns n hu] at hend
  rcases hserves.answered_or_left with ⟨more, hdone⟩ | ⟨left, hpending, hleft⟩
  · refine ⟨n, u, by omega, hu, hne, .inl ⟨more.map answered, ?_⟩⟩
    rw [hserves.log, hdone, List.map_append, List.append_assoc]
  · rcases hend with hend | ⟨ts, hreset⟩
    · obtain ⟨t, ht, hlog⟩ := runSteps_drain left hend hleft
      have hlen : s.turns.length ≤ n := by simpa [runSteps_turns n hu] using hend
      refine ⟨n + left.length, t, by simp [hpending]; omega, runSteps_add ht hu, ?_, .inl ⟨[], ?_⟩⟩
      · rw [List.take_of_length_le (by omega)]
        rwa [List.take_of_length_le hlen] at hne
      · rw [hlog, hserves.log, hpending, List.map_append, List.append_nil, List.append_assoc]
    · cases left with
      | nil =>
        refine ⟨n, u, by omega, hu, hne, .inl ⟨[], ?_⟩⟩
        rw [hserves.log, hpending, List.append_nil, List.append_nil]
      | cons r left =>
        refine ⟨n, u, by omega, hu, hne, .inr ⟨done.length, ts, taken.filterMap sampleRequest, hreset, by simp [hpending], ?_, ?_⟩⟩
        · rw [hserves.log, hpending, List.take_left]
        · rw [hleft, hpending, List.drop_left]

/-! ### Every run ends -/

/-- An upper bound on the steps to the end of a run: a turn is taken at most once, a request issued and then completed (log entry 2). -/
def stepsLeft (s : State) : Nat := s.turns.length + s.pending.length + 2 * s.requests.length

theorem stepsLeft_presentRequest_lt {s : State} {p : PortRequest} {rest : List PortRequest} (hr : s.requests = p :: rest) :
    stepsLeft (presentRequest p { s with requests := rest }) < stepsLeft s := by
  rcases presentRequest_cases p { s with requests := rest } with ⟨r, -, h⟩ | ⟨-, h⟩
  · simp only [h, stepsLeft, hr, acceptRequest_turns, acceptRequest_pending, acceptRequest_requests, List.length_append,
      List.length_cons, List.length_nil]
    omega
  · simp [h, stepsLeft, hr]

theorem stepsLeft_complete_lt {s : State} {r : Request} {rest : List Request} (hp : s.pending = r :: rest) :
    stepsLeft (deliver r (requestResult r) { s with pending := rest }) < stepsLeft s := by
  simp [stepsLeft, hp]

theorem Happens.stepsLeft_le {cap : Nat} {s t : State} {tn : Turn} (h : Happens cap s tn t) : stepsLeft t ≤ stepsLeft s := by
  cases h with
  | noIssue => exact Nat.le_refl _
  | issue p rest hr hroom => exact (stepsLeft_presentRequest_lt hr).le
  | noComplete hp => exact Nat.le_refl _
  | complete r rest hp => exact (stepsLeft_complete_lt hp).le
  | read => rcases readBlkOut_cases s with ⟨v, -, h⟩ | ⟨-, h⟩ <;> exact h ▸ Nat.le_refl _
  | reset => simp [stepsLeft]

/-- A run is at its end, or its next step brings the end nearer. -/
theorem ended_or_step (s : State) : (s.turns = [] ∧ RunOver s) ∨ ∃ t, step s = .next t ∧ stepsLeft t < stepsLeft s := by
  cases hts : s.turns with
  | cons tn ts =>
    obtain ⟨t, ht⟩ := everyStepCompletes s
    have hle : stepsLeft t ≤ stepsLeft { s with turns := ts } := (happens_of_step hts ht).stepsLeft_le
    have hlt : stepsLeft { s with turns := ts } < stepsLeft s := by simp [stepsLeft, hts]
    exact .inr ⟨t, ht, hle.trans_lt hlt⟩
  | nil =>
    cases hp : s.pending with
    | cons r rest =>
      exact .inr ⟨_, (step_of_drainTurn hts (drainTurn_of_pending hp)).trans (completeOldest_cons hp), stepsLeft_complete_lt hp⟩
    | nil =>
      cases hr : s.requests with
      | cons p rest =>
        have hissue : issueNext Config.maxInflight s = presentRequest p { s with requests := rest } :=
          issueNext_of_room hr (hp ▸ Config.maxInflight_pos)
        exact .inr ⟨_, (step_of_drainTurn hts (drainTurn_of_requests hp hr)).trans (congrArg Host.Outcome.next hissue),
          stepsLeft_presentRequest_lt hr⟩
      | nil => exact .inl ⟨rfl, hr, hp⟩

/-- From every state the end is reached within the bound. -/
theorem exists_run_to_end (s : State) : ∃ n t, n ≤ stepsLeft s ∧ runSteps n s = .next t ∧ t.turns = [] ∧ RunOver t := by
  rcases ended_or_step s with ⟨hts, hover⟩ | ⟨u, hu, hlt⟩
  · exact ⟨0, s, Nat.zero_le _, rfl, hts, hover⟩
  · obtain ⟨n, t, hn, hrun, hend⟩ := exists_run_to_end u
    exact ⟨n + 1, t, hn.trans_lt hlt, (runSteps_succ_of_step hu).trans hrun, hend⟩
termination_by stepsLeft s

/-- Settles O50: the end is reached within the bound, and there a step changes nothing (R117; log entry 2). -/
theorem everyRunEnds : Obligations.EveryRunEnds := by
  intro s
  obtain ⟨n, t, hn, hrun, hts, hover⟩ := exists_run_to_end s
  exact ⟨n, t, hn, hrun, hover, hts, step_of_runOver hts hover⟩

end Sys2Proof.Machine
end

section
/-! PROOFS. Requests written as text (30_encoding.md R47; log entry 18): when a literal is accepted for a field, and that a written request
assembles to itself. -/

namespace Sys2Proof.Machine

/-! ### Literals for a field -/

theorem readField_of_lt {width n : Nat} {cs : List Char} (h : readLiteral (trimGaps cs) = some n) (hn : n < 2 ^ width) :
    readField width cs = .ok (BitVec.ofNat width n) := by
  simp only [readField, h, if_pos hn]

theorem readField_of_ge {width n : Nat} {cs : List Char} (h : readLiteral (trimGaps cs) = some n) (hn : 2 ^ width ≤ n) :
    readField width cs = .error .literalTooWide := by
  simp only [readField, h, if_neg hn.not_gt]

/-- Settles O26: the one test that a literal's value has to pass. -/
theorem literalMustFitItsField : Obligations.LiteralMustFitItsField := fun _ _ _ h =>
  ⟨readField_of_lt h, readField_of_ge h⟩

/-! ### The characters of a literal -/

/-- A character that the reading of a line gives no meaning of its own: no comma, no gap, and no start of a comment or an arrow. -/
def isPlain (c : Char) : Bool := c != ',' && c != ';' && c != '=' && !isGap c

theorem isGap_eq_false_of_isPlain {c : Char} (h : isPlain c = true) : isGap c = false := by
  simp_all [isPlain]

theorem ne_of_isPlain {c d : Char} (hd : isPlain d = false) (hc : isPlain c = true) : d ≠ c := by
  rintro rfl
  exact Bool.false_ne_true (hd.symm.trans hc)

theorem hexDigit_isPlain (d : Fin 16) : isPlain (hexDigit d) = true := by
  revert d
  decide

theorem digitValue_hexDigit (d : Fin 16) : digitValue 16 (hexDigit d) = some d.val := by
  revert d
  decide

theorem forall_mem_hexDigits_isPlain (digits : Nat) : ∀ n, ∀ c ∈ hexDigits digits n, isPlain c = true := by
  induction digits with
  | zero => simp [hexDigits]
  | succ digits ih =>
    intro n
    exact List.forall_mem_append.2 ⟨ih (n / 16), List.forall_mem_singleton.2 (hexDigit_isPlain ⟨n % 16, Nat.mod_lt _ (by decide)⟩)⟩

theorem forall_mem_hexLiteral_isPlain (digits n : Nat) : ∀ c ∈ hexLiteral digits n, isPlain c = true :=
  List.forall_mem_cons.2 ⟨by decide, List.forall_mem_cons.2 ⟨by decide, forall_mem_hexDigits_isPlain digits n⟩⟩

theorem notMem_hexLiteral {d : Char} (hd : isPlain d = false) (digits n : Nat) : d ∉ hexLiteral digits n := fun h =>
  ne_of_isPlain hd (forall_mem_hexLiteral_isPlain digits n d h) rfl

/-! ### The value of a literal -/

/-- Digits read one string after the other: the value of the first is carried into the second. -/
theorem readDigits_append {base acc m : Nat} {cs : List Char} (h : readDigits base acc cs = some m) (ds : List Char) :
    readDigits base acc (cs ++ ds) = readDigits base m ds := by
  induction cs generalizing acc with
  | nil =>
    cases h
    rfl
  | cons c cs ih =>
    cases hc : digitValue base c with
    | none => simp [readDigits, hc] at h
    | some d =>
      simp only [readDigits, hc, List.cons_append] at h ⊢
      exact ih h

/-- The written digits are read back as the number cut to that many digits. -/
theorem readDigits_hexDigits (digits : Nat) : ∀ n, readDigits 16 0 (hexDigits digits n) = some (n % 16 ^ digits) := by
  induction digits with
  | zero => simp [hexDigits, readDigits, Nat.mod_one]
  | succ digits ih =>
    intro n
    have hlast : digitValue 16 (hexDigit (n % 16)) = some (n % 16) := digitValue_hexDigit ⟨n % 16, Nat.mod_lt _ (by decide)⟩
    have hvalue : n / 16 % 16 ^ digits * 16 + n % 16 = n % 16 ^ (digits + 1) := by
      rw [Nat.pow_succ', Nat.mod_mul, Nat.add_comm, Nat.mul_comm]
    rw [hexDigits, readDigits_append (ih (n / 16)), readDigits, hlast, ← hvalue]
    rfl

theorem readNumber_of_ne_nil {base : Nat} {cs : List Char} (h : cs ≠ []) : readNumber base cs = readDigits base 0 cs := by
  cases cs with
  | nil => exact absurd rfl h
  | cons c cs => rfl

theorem readLiteral_hexLiteral (digits n : Nat) : readLiteral (hexLiteral (digits + 1) n) = some (n % 16 ^ (digits + 1)) := by
  have hne : hexDigits (digits + 1) n ≠ [] := List.append_ne_nil_of_right_ne_nil _ (List.cons_ne_nil _ _)
  rw [← readDigits_hexDigits, ← readNumber_of_ne_nil hne, hexLiteral, readLiteral]

/-! ### Gaps, commas, comments and arrows -/

theorem dropWhile_isGap_of_head {cs : List Char} (h : ∀ c ∈ cs.head?, isGap c = false) : cs.dropWhile isGap = cs := by
  cases cs with
  | nil => rfl
  | cons c cs => simp [h c rfl]

/-- Text that neither begins nor ends with a gap is left as it is. -/
theorem trimGaps_of_ends {cs : List Char} (hhead : ∀ c ∈ cs.head?, isGap c = false) (hlast : ∀ c ∈ cs.getLast?, isGap c = false) :
    trimGaps cs = cs := by
  rw [← List.head?_reverse] at hlast
  rw [trimGaps, dropWhile_isGap_of_head hhead, dropWhile_isGap_of_head hlast, List.reverse_reverse]

theorem trimGaps_space_cons (cs : List Char) : trimGaps (' ' :: cs) = trimGaps cs := by
  simp [trimGaps, isGap]

theorem trimGaps_hexLiteral (digits n : Nat) : trimGaps (hexLiteral digits n) = hexLiteral digits n := by
  have hnogap : ∀ c ∈ hexLiteral digits n, isGap c = false := fun c hc =>
    isGap_eq_false_of_isPlain (forall_mem_hexLiteral_isPlain digits n c hc)
  exact trimGaps_of_ends (fun c hc => hnogap c (List.mem_of_mem_head? hc)) (fun c hc => hnogap c (List.mem_of_getLast? hc))

theorem splitCommas_of_notMem {w : List Char} (h : ',' ∉ w) : splitCommas w = [w] := by
  induction w with
  | nil => rfl
  | cons c w ih =>
    rw [List.mem_cons, not_or] at h
    obtain ⟨hc, hw⟩ := h
    simp [splitCommas, ih hw, Ne.symm hc]

theorem splitCommas_append_comma {w : List Char} (h : ',' ∉ w) (cs : List Char) :
    splitCommas (w ++ ',' :: cs) = w :: splitCommas cs := by
  induction w with
  | nil => simp [splitCommas]
  | cons c w ih =>
    rw [List.mem_cons, not_or] at h
    obtain ⟨hc, hw⟩ := h
    simp [splitCommas, ih hw, Ne.symm hc]

theorem splitComment_of_notMem {cs : List Char} (h : ';' ∉ cs) : splitComment cs = (cs, []) := by
  induction cs with
  | nil => rfl
  | cons c cs ih =>
    rw [List.mem_cons, not_or] at h
    obtain ⟨hc, hcs⟩ := h
    simp [splitComment, ih hcs, Ne.symm hc]

theorem splitArrow_of_notMem {cs : List Char} (h : '=' ∉ cs) : splitArrow cs = (cs, none) := by
  induction cs using splitArrow.induct with
  | case1 => rfl
  | case2 cs => simp at h
  | case3 c cs hne ih =>
    rw [List.mem_cons, not_or] at h
    rw [splitArrow, ih h.2]
    exact hne

/-! ### A written request -/

/-- The operands of a written request, from the first literal to the last. -/
def operandText (r : Request) : List Char :=
  hexLiteral 16 r.blk.toNat ++ ',' :: ' ' :: (hexLiteral 8 r.k.k0.toNat ++ ',' :: ' ' :: (hexLiteral 8 r.k.k1.toNat ++ ',' :: ' ' ::
    (hexLiteral 8 r.k.k2.toNat ++ ',' :: ' ' :: (hexLiteral 8 r.k.k3.toNat ++ ',' :: ' ' :: (hexLiteral 8 r.k.k4.toNat ++ ',' :: ' ' ::
      hexLiteral 8 r.k.k5.toNat)))))

/-- A literal of full width, after a space, is read as its value. -/
theorem readField_space_hexLiteral {width digits : Nat} (hwidth : width = 4 * (digits + 1)) (v : BitVec width) :
    readField width (' ' :: hexLiteral (digits + 1) v.toNat) = .ok v := by
  have hlt : v.toNat < 16 ^ (digits + 1) := by
    have hpow : 2 ^ width = 16 ^ (digits + 1) := by rw [hwidth, Nat.pow_mul]
    exact hpow ▸ v.isLt
  have hread : readLiteral (trimGaps (' ' :: hexLiteral (digits + 1) v.toNat)) = some v.toNat := by
    rw [trimGaps_space_cons, trimGaps_hexLiteral, readLiteral_hexLiteral, Nat.mod_eq_of_lt hlt]
  rw [readField_of_lt hread v.isLt, BitVec.ofNat_toNat, BitVec.setWidth_eq]

/-- The pieces between the commas are the seven literals, each after a space. -/
theorem splitCommas_operandText (r : Request) :
    splitCommas (' ' :: operandText r) =
      [' ' :: hexLiteral 16 r.blk.toNat, ' ' :: hexLiteral 8 r.k.k0.toNat, ' ' :: hexLiteral 8 r.k.k1.toNat,
        ' ' :: hexLiteral 8 r.k.k2.toNat, ' ' :: hexLiteral 8 r.k.k3.toNat, ' ' :: hexLiteral 8 r.k.k4.toNat,
        ' ' :: hexLiteral 8 r.k.k5.toNat] := by
  have hpiece : ∀ digits n, ',' ∉ ' ' :: hexLiteral digits n := fun digits n =>
    List.not_mem_cons_of_ne_of_not_mem (by decide) (notMem_hexLiteral (by decide) digits n)
  have hcut : ∀ digits n cs, splitCommas (' ' :: (hexLiteral digits n ++ ',' :: cs)) = (' ' :: hexLiteral digits n) :: splitCommas cs :=
    fun digits n cs => splitCommas_append_comma (hpiece digits n) cs
  simp only [operandText, hcut, splitCommas_of_notMem (hpiece _ _)]

theorem readOperands_operandText (op : Bit) (r : Request) :
    readOperands op (' ' :: operandText r) = .ok { r with op := op } := by
  simp only [readOperands, splitCommas_operandText, readField_space_hexLiteral (width := 64) (digits := 15) rfl,
    readField_space_hexLiteral (width := 32) (digits := 7) rfl]
  rfl

theorem readRequest_operandText (op : Bit) (r : Request) :
    readRequest op (' ' :: operandText r) none [] = .ok (.request { r with op := op } none) := by
  simp only [readRequest, readOperands_operandText]
  rfl

theorem renderRequest_of_enc {r : Request} (h : r.op = 0) : renderRequest r = 'E' :: 'N' :: 'C' :: ' ' :: operandText r := by
  simp [renderRequest, operandText, h]

theorem renderRequest_of_dec {r : Request} (h : r.op = 1) : renderRequest r = 'D' :: 'E' :: 'C' :: ' ' :: operandText r := by
  simp [renderRequest, operandText, h]

/-- A written request consists of plain characters, spaces and commas. -/
theorem notMem_renderRequest {d : Char} (hd : isPlain d = false) (hspace : d ≠ ' ') (hcomma : d ≠ ',') (r : Request) :
    d ∉ renderRequest r := by
  have htext : d ∉ operandText r := by
    simp [operandText, notMem_hexLiteral hd, hspace, hcomma]
  rcases bit_cases r.op with h | h
  · simp [renderRequest_of_enc h, htext, hspace, ne_of_isPlain hd (show isPlain 'E' = true by decide),
      ne_of_isPlain hd (show isPlain 'N' = true by decide), ne_of_isPlain hd (show isPlain 'C' = true by decide)]
  · simp [renderRequest_of_dec h, htext, hspace, ne_of_isPlain hd (show isPlain 'D' = true by decide),
      ne_of_isPlain hd (show isPlain 'E' = true by decide), ne_of_isPlain hd (show isPlain 'C' = true by decide)]

/-- A written request begins with a letter and ends with a digit. -/
theorem trimGaps_renderRequest (r : Request) : trimGaps (renderRequest r) = renderRequest r := by
  apply trimGaps_of_ends
  · rcases bit_cases r.op with h | h
    · simp [renderRequest_of_enc h, isGap]
    · simp [renderRequest_of_dec h, isGap]
  · obtain ⟨front, hfront⟩ : ∃ front, renderRequest r = front ++ hexLiteral 8 r.k.k5.toNat := ⟨_, rfl⟩
    intro c hc
    rw [hfront, List.getLast?_append_of_ne_nil _ (show hexLiteral 8 _ ≠ [] from List.cons_ne_nil _ _)] at hc
    exact isGap_eq_false_of_isPlain (forall_mem_hexLiteral_isPlain _ _ c (List.mem_of_getLast? hc))

theorem assembleLine_renderRequest (r : Request) : assembleLine (renderRequest r) = .ok (.request r none) := by
  have hcomment : ';' ∉ renderRequest r := notMem_renderRequest (by decide) (by decide) (by decide) r
  have harrow : '=' ∉ renderRequest r := notMem_renderRequest (by decide) (by decide) (by decide) r
  simp only [assembleLine, splitComment_of_notMem hcomment, splitArrow_of_notMem harrow, trimGaps_renderRequest]
  rcases bit_cases r.op with h | h
  · rw [renderRequest_of_enc h]
    exact (readRequest_operandText 0 r).trans (by rw [← h])
  · rw [renderRequest_of_dec h]
    exact (readRequest_operandText 1 r).trans (by rw [← h])

/-- Settles O25: the line has no comment and no arrow, its first word names the operation, and each literal of full width is read back as
its field (R47). -/
theorem writtenLineAssembles : Obligations.WrittenLineAssembles := fun r => ⟨assembleLine_renderRequest r, rfl⟩

end Sys2Proof.Machine
end
